-- ==== Sys2Proof/Word.lean ====
section
/-!
DEFINITION. The two word types of the CORE (rule R8): every cell and almost every register is an unsigned byte,
and the clock count is the one 16-bit quantity.
-/

namespace Sys2Proof

/-- An unsigned 8-bit value: a `Shared` cell, an input sample, most CORE registers (rule R8, "u8"). -/
abbrev Byte := BitVec 8

/-- An unsigned 16-bit value: the clock count and the address field of a host-script line (rules R8, R45, R73). -/
abbrev Half := BitVec 16

end Sys2Proof
end

