-- ==== Sys2Proof/Syntax.lean ====
section
/-!
DEFINITION. The instructions of the BB-PS4 CORE: one constructor for each of the 52 rows of the opcode table, in the
table's order. The CORE has no loadable program (rule R1); what the table lists is of three kinds.

* `SLOT` rows (rule R60): the 21 operations of the fixed dispatch sequence; the encoding is the slot number.
* `CMD8` rows (rules R61 to R67): what one slot does once it has found one particular byte in one particular cell.
  A row that the table gives for every replica (`A_CTRL_CMD[c]`, `A_XL_STATUS[t]`) carries the replica's number.
* host-script rows (rule R73): one step of the HOST, of the InputDevice or of the tick trigger.
-/

namespace Sys2Proof

/-- The instructions, in the order of the opcode table. -/
inductive Instr where
  /-- slot 0, the interrupt gate (R82) -/
  | irq
  /-- slot 1, the input relay (R84) -/
  | inrel
  /-- slot 2, the credit tracker (R102) -/
  | credit
  /-- slot 3, the lockout arbiter (R110) -/
  | lock
  /-- slot 4, controller 0 (R121) -/
  | ctrl0
  /-- slot 5, controller 1 (R121) -/
  | ctrl1
  /-- slot 6, controller 2, the level variant (R121, R130) -/
  | ctrl2
  /-- slot 7, the beastie relay of player 0 (R163) -/
  | beast0
  /-- slot 8, the beastie relay of player 1 (R163) -/
  | beast1
  /-- slot 9, creeper 0 (R142) -/
  | creep0
  /-- slot 10, creeper 1 (R142) -/
  | creep1
  /-- slot 11, creeper 2 (R142) -/
  | creep2
  /-- slot 12, creeper 3 (R142) -/
  | creep3
  /-- slot 13, the clock countdown (R170) -/
  | clock
  /-- slot 14, the credit mischief (R175) -/
  | mischief
  /-- slot 15, the extend rotator (R177) -/
  | extend
  /-- slot 16, translator 0 (R186) -/
  | xlat0
  /-- slot 17, translator 1 (R186) -/
  | xlat1
  /-- slot 18, translator 2 (R186) -/
  | xlat2
  /-- slot 19, the reset watcher (R195) -/
  | rstw
  /-- slot 20, the delay-marker check (R87) -/
  | delay
  /-- `A_IRQ_MARKER` holds the ready marker: the interrupt pulse (R82, R83) -/
  | irqReady
  /-- `A_LOCK_CMD` holds the engage command (R110) -/
  | lockEngage
  /-- `A_LOCK_CMD` holds the disengage command (R110) -/
  | lockDisengage
  /-- `A_CTRL_CMD[c]` holds 0: the diagnostic of controller `c` (R128) -/
  | ctrlIdle (c : Fin 3)
  /-- `A_CTRL_GATE[c]` holds the gate marker: the consistency check of controller `c` (R128) -/
  | diagGate (c : Fin 3)
  /-- `A_MISCHIEF_EN` holds the enable value (R175) -/
  | mischiefEn
  /-- `A_XL_STATUS[t]` holds "armed": translator `t` fires (R186) -/
  | xlatArm (t : Fin 3)
  /-- `A_XL_STATUS[t]` holds "done": a no-op (R190, R191) -/
  | xlatDone (t : Fin 3)
  /-- `A_RESET_CMD` holds the warm-reset trigger (R195, R196) -/
  | rstWarm
  /-- `A_DELAY_MARKER` holds the delay marker: the pad is skipped (R87) -/
  | delayMark
  /-- controller 0, `DERIVE` (R122) -/
  | ctrl0Derive
  /-- controller 0, `INC` (R123) -/
  | ctrl0Inc
  /-- controller 0, `DEC` (R124) -/
  | ctrl0Dec
  /-- controller 0, `SETMAX` (R125) -/
  | ctrl0SetMax
  /-- controller 1, `DERIVE` (R122) -/
  | ctrl1Derive
  /-- controller 1, `INC` (R123) -/
  | ctrl1Inc
  /-- controller 1, `DEC` (R124) -/
  | ctrl1Dec
  /-- controller 1, `SETMAX` (R125) -/
  | ctrl1SetMax
  /-- controller 2, `SET(0x00)` (R126) -/
  | ctrl2Set00
  /-- controller 2, `INC`, the target "+1" (R123, R130) -/
  | ctrl2Inc
  /-- controller 2, `SET(0x31)` (R126) -/
  | ctrl2Set31
  /-- controller 2, `SET(0x62)` (R126) -/
  | ctrl2Set62
  /-- controller 2, `SET(0x63)` (R126) -/
  | ctrl2Set63
  /-- controller 2, `SET(0x64)` (R126) -/
  | ctrl2Set64
  /-- controller 2, `SET(0x65)` (R126) -/
  | ctrl2Set65
  /-- `HW a, v`: the HOST writes `v` to the `Shared` cell at `a` (R73) -/
  | hw (a : Half) (v : Byte)
  /-- `HR a -> v`: the HOST reads `a`, and the script asserts the result `v` (R73) -/
  | hr (a : Half) (v : Byte)
  /-- `IN b, v`: the InputDevice presents `v` at `Inputs[b]` until changed (R73) -/
  | inp (b : Fin 4) (v : Byte)
  /-- `CAB v`: the InputDevice presents `v` at `CAB_IN` until changed (R73) -/
  | cab (v : Byte)
  /-- `TICK`: one tick trigger (R73, R207) -/
  | tick
  /-- `RESET`: a cold reset (R73, R231) -/
  | reset
deriving DecidableEq, Repr

end Sys2Proof
end

