-- ==== Sys2Proof/WellFormed.lean ====
section
/-!
DEFINITION. Which instructions are well formed. Registers, replicas and input banks are typed by their ranges, so the
one check left is the address field of a host-script line.
-/

namespace Sys2Proof

/-- `a` lies in `Shared`, the window `0xC00..0xFFF` (rule R41). -/
abbrev InShared (a : Nat) : Prop := 0xC00 ≤ a ∧ a ≤ 0xFFF

/-- `a` is one of the four input registers, the addresses `0..3` (rule R41). -/
abbrev InInputs (a : Nat) : Prop := a < 4

/-- Rule R73 gives `HW` an address of `Shared`; `HR` is a bus read, which rule R42 gives a meaning in the two mapped
regions only. Every other instruction is well formed by its type. -/
def Instr.wellFormed : Instr → Bool
  | .hw a _ => decide (InShared a.toNat)
  | .hr a _ => decide (InShared a.toNat ∨ InInputs a.toNat)
  | .irq | .inrel | .credit | .lock | .ctrl0 | .ctrl1 | .ctrl2 | .beast0 | .beast1
  | .creep0 | .creep1 | .creep2 | .creep3 | .clock | .mischief | .extend | .xlat0 | .xlat1 | .xlat2
  | .rstw | .delay => true
  | .irqReady | .lockEngage | .lockDisengage | .ctrlIdle _ | .diagGate _ | .mischiefEn | .xlatArm _
  | .xlatDone _ | .rstWarm | .delayMark => true
  | .ctrl0Derive | .ctrl0Inc | .ctrl0Dec | .ctrl0SetMax | .ctrl1Derive | .ctrl1Inc | .ctrl1Dec | .ctrl1SetMax
  | .ctrl2Set00 | .ctrl2Inc | .ctrl2Set31 | .ctrl2Set62 | .ctrl2Set63 | .ctrl2Set64 | .ctrl2Set65 => true
  | .inp _ _ | .cab _ | .tick | .reset => true

/-- The well-formed instructions, as a proposition that `decide` can run. -/
abbrev Instr.WF (i : Instr) : Prop := i.wellFormed = true

end Sys2Proof
end

