-- ==== Sys2Proof/Config.lean ====
section
/-!
DEFINITION. The configuration record `Cfg` (rule R7): every cell address, bit position, table content and code value
that the source leaves open, and the constants it fixes (rule R5: literals that are also named fields). A configuration
is plain data, so that a state can hold it; nothing a step does ever writes it. Also here: when a configuration is
valid (rules R7, R31), and the FREE VALUES, constants without a body, about which nothing can be proved.
-/

namespace Sys2Proof

/-- The byte a coin or service signal is taken from (rules R86, R101; field `SIG_SRC`). -/
inductive SigSrc where
  /-- the cabinet byte, `cabLatch` -/
  | cab
  /-- the copy of `Inputs[b]` -/
  | bank (b : Fin 4)
deriving DecidableEq, Repr

/-- Where `INC` and `DEC` take their operand from (rule R123; field `CTRL_OPERAND`). -/
inductive OperandSrc where
  /-- the register `ctrlCache[c]` -/
  | cache
  /-- the cell `A_CTRL_OUT[c]` -/
  | output
deriving DecidableEq, Repr

/-- One entry of the pricing table: coins needed, credits awarded (rule R103; field `PRICE[j]`). -/
structure Price where
  need  : Byte
  award : Byte
deriving DecidableEq, Repr

/-- A DIP-indexed table (rule R122; field `CTRL_DERIVE[c]`): the listed bits of the four bank bytes, the first the most
significant, make the index into `table`. With all 32 bits listed this is any total function of the four bytes. -/
structure DipTable where
  bits  : List (Fin 4 × Fin 8)
  table : List Byte
deriving DecidableEq, Repr

/-- The command map of a credit-variant controller (rule R65): the one-hot byte of each of the four operations. Rule
R65 makes `CTRL_MAP[c]` an injective assignment, so this is the same data read the other way. -/
structure CreditMap where
  deriveCmd : Byte
  incCmd    : Byte
  decCmd    : Byte
  setMaxCmd : Byte
deriving DecidableEq, Repr

/-- The command map of the level-variant controller (rule R66): the one-hot byte of each of the seven targets. -/
structure LevelMap where
  set00Cmd : Byte
  incCmd   : Byte
  set31Cmd : Byte
  set62Cmd : Byte
  set63Cmd : Byte
  set64Cmd : Byte
  set65Cmd : Byte
deriving DecidableEq, Repr

/-- The level controller's seven targets (rules R5, R66, R126, R130; `LEVEL_TARGETS`): the constants of the six
set-to-constant ones, and the amount of the target "+1". -/
structure LevelTargets where
  set00 : Byte
  /-- what the target "+1" adds -/
  plus  : Byte
  set31 : Byte
  set62 : Byte
  set63 : Byte
  set64 : Byte
  set65 : Byte
deriving DecidableEq, Repr

/-- The configuration record (rule R7, tables 4.2, 4.3 and 4.4 of the scope file). -/
structure Cfg where
  -- table 4.2, constants the source fixes (rule R5)
  vIrqReady        : Byte
  vReset           : Byte
  vDiag            : Byte
  vXlArmed         : Byte
  vXlDone          : Byte
  vLockEngage      : Byte
  vLockDisengage   : Byte
  vMischiefEn      : Byte
  vMischiefLevel   : Byte
  vMischiefCredits : Byte
  creditCeiling    : Byte
  overlapLimit     : Byte
  extendModulus    : Byte
  levelTargets     : LevelTargets
  -- table 4.3, cell addresses
  aIrqMarker   : Nat
  aCabMirror   : Nat
  aBankMirror  : Vector Nat 4
  aPhony       : Nat
  aChanged     : Nat
  aLockCmd     : Nat
  aCtrlCmd     : Vector Nat 3
  aCtrlOut     : Vector Nat 3
  aCtrlGate    : Vector Nat 3
  aPLive       : Vector Nat 2
  aPY          : Vector Nat 2
  aPX          : Vector Nat 2
  aKillReq     : Vector Nat 2
  aKillIdx     : Vector Nat 2
  aBStage      : Vector Nat 7
  aBY          : Vector Nat 7
  aBX          : Vector Nat 7
  aOVCode      : Vector (Vector Nat 7) 2
  aOHCode      : Vector (Vector Nat 7) 2
  aOVDist      : Vector (Vector Nat 7) 2
  aOHDist      : Vector (Vector Nat 7) 2
  aCreepSel    : Vector Nat 4
  aCreepOut    : Vector Nat 4
  aClkActive   : Nat
  aClkHi       : Nat
  aClkLo       : Nat
  aClkDone     : Nat
  aMischiefEn  : Nat
  aExtend      : Nat
  aXlStatus    : Vector Nat 3
  aXlTable     : Vector Nat 3
  aXlIndex     : Vector Nat 3
  aXlOffset    : Vector Nat 3
  xlBase       : Vector Nat 3
  aResetCmd    : Nat
  aDelayMarker : Nat
  -- table 4.4, values, bit positions and tables
  vDelayMarker   : Byte
  vChanged       : Byte
  vDone          : Byte
  vKill          : Byte
  codeCentered   : Byte
  codeAboveRight : Byte
  codeBelowLeft  : Byte
  liveMask       : Byte
  sigSrc         : Vector SigSrc 3
  sigBit         : Vector (Fin 8) 3
  priceBank      : Vector (Fin 4) 2
  priceShift     : Vector (Fin 7) 2
  price          : Vector Price 4
  creditMap      : Vector CreditMap 2
  levelMap       : LevelMap
  ctrlMax        : Vector Byte 3
  ctrlDerive     : Vector DipTable 2
  ctrlOperand    : OperandSrc
  creepTables    : List (List Byte)
  creepSentinel  : Byte
  xlTables       : List (List Byte)
  extendOor      : List Byte
  resetZeroesShared : Bool
  hostInterleave    : Bool
deriving DecidableEq, Repr

/-! ### Validity (rules R7 and R31) -/

/-- The control cells of rule R28 other than the diagnostic-gate cells. -/
def Cfg.controlCells (c : Cfg) : List Nat :=
  [c.aIrqMarker, c.aDelayMarker, c.aResetCmd, c.aLockCmd, c.aMischiefEn, c.aClkActive]
    ++ c.aCtrlCmd.toList ++ c.aXlStatus.toList ++ c.aXlTable.toList ++ c.aXlIndex.toList
    ++ c.aXlOffset.toList ++ c.aCreepSel.toList

/-- The diagnostic-gate cells, the only cells that may coincide (rule R31). -/
def Cfg.gateCells (c : Cfg) : List Nat := c.aCtrlGate.toList

/-- The output cells of player `p`'s beastie relay (rule R29). -/
def Cfg.beastOutCells (c : Cfg) (p : Fin 2) : List Nat :=
  c.aOVCode[p].toList ++ c.aOHCode[p].toList ++ c.aOVDist[p].toList ++ c.aOHDist[p].toList

/-- The data cells of rule R29 other than the translator windows. -/
def Cfg.dataCells (c : Cfg) : List Nat :=
  [c.aCabMirror, c.aPhony, c.aChanged, c.aClkHi, c.aClkLo, c.aClkDone, c.aExtend]
    ++ c.aBankMirror.toList ++ c.aCtrlOut.toList ++ c.aPLive.toList ++ c.aPY.toList ++ c.aPX.toList
    ++ c.aKillReq.toList ++ c.aKillIdx.toList ++ c.aBStage.toList ++ c.aBY.toList ++ c.aBX.toList
    ++ c.beastOutCells 0 ++ c.beastOutCells 1 ++ c.aCreepOut.toList

/-- Every cell but the gates. -/
def Cfg.plainCells (c : Cfg) : List Nat := c.controlCells ++ c.dataCells

/-- Address `a` lies in translator `t`'s window `XL_BASE[t] .. XL_BASE[t]+255` (rule R29). -/
abbrev Cfg.InWindow (c : Cfg) (t : Fin 3) (a : Nat) : Prop := c.xlBase[t] ≤ a ∧ a ≤ c.xlBase[t] + 255

/-- Every address field and every translator window lies in `Shared` (rule R7). -/
abbrev Cfg.CellsInShared (c : Cfg) : Prop :=
  (∀ a ∈ c.plainCells, InShared a) ∧ (∀ a ∈ c.gateCells, InShared a) ∧
  ∀ t : Fin 3, 0xC00 ≤ c.xlBase[t] ∧ c.xlBase[t] + 255 ≤ 0xFFF

/-- The cells are pairwise distinct, but for the gates among themselves; no window holds a control cell; the windows do
not overlap (rule R31). -/
abbrev Cfg.CellsDistinct (c : Cfg) : Prop :=
  c.plainCells.Nodup ∧ (∀ g ∈ c.gateCells, g ∉ c.plainCells) ∧
  (∀ t : Fin 3, ∀ a ∈ c.controlCells ++ c.gateCells, ¬ c.InWindow t a) ∧
  ∀ t u : Fin 3, t ≠ u → c.xlBase[t] + 255 < c.xlBase[u] ∨ c.xlBase[u] + 255 < c.xlBase[t]

/-- The eight one-hot bytes (rule R64). -/
def oneHotBytes : List Byte := [0x01, 0x02, 0x04, 0x08, 0x10, 0x20, 0x40, 0x80]

/-- The four command bytes of a credit-variant map. -/
def CreditMap.bytes (m : CreditMap) : List Byte := [m.deriveCmd, m.incCmd, m.decCmd, m.setMaxCmd]

/-- The seven command bytes of the level-variant map. -/
def LevelMap.bytes (m : LevelMap) : List Byte :=
  [m.set00Cmd, m.incCmd, m.set31Cmd, m.set62Cmd, m.set63Cmd, m.set64Cmd, m.set65Cmd]

/-- Each command map assigns distinct one-hot bytes (rules R64 to R66). -/
abbrev Cfg.MapsOneHot (c : Cfg) : Prop :=
  (∀ k : Fin 2, c.creditMap[k].bytes.Nodup ∧ ∀ v ∈ c.creditMap[k].bytes, v ∈ oneHotBytes) ∧
  c.levelMap.bytes.Nodup ∧ ∀ v ∈ c.levelMap.bytes, v ∈ oneHotBytes

/-- The constant tables have the shapes rules R7, R122, R141, R178 and R185 give them. -/
abbrev Cfg.TablesShaped (c : Cfg) : Prop :=
  c.creepTables.length = 41 ∧
  (∀ t ∈ c.creepTables, t ≠ [] ∧ t.length ≤ 255 ∧ c.creepSentinel ∉ t) ∧
  c.xlTables.length = 5 ∧ (∀ t ∈ c.xlTables, t.length = 256) ∧
  c.extendOor.length = 250 ∧
  ∀ k : Fin 2, c.ctrlDerive[k].table.length = 2 ^ c.ctrlDerive[k].bits.length

/-- The value fields of table 4.4 satisfy their constraints (rule R7). -/
abbrev Cfg.ValuesOk (c : Cfg) : Prop :=
  c.codeCentered ≠ c.codeAboveRight ∧ c.codeCentered ≠ c.codeBelowLeft ∧ c.codeAboveRight ≠ c.codeBelowLeft ∧
  c.liveMask ∈ oneHotBytes ∧ (∀ j : Fin 4, c.price[j].need ≠ 0) ∧
  c.vChanged ≠ 0 ∧ c.vDone ≠ 0 ∧ c.vKill ≠ 0

/-- A valid configuration (rule R7): the spec gives meaning to these only. -/
structure Cfg.Valid (c : Cfg) : Prop where
  inShared : c.CellsInShared
  distinct : c.CellsDistinct
  maps     : c.MapsOneHot
  tables   : c.TablesShaped
  values   : c.ValuesOk

/-- Whether the configuration is valid, as a computation. -/
def Cfg.valid (c : Cfg) : Bool :=
  decide (c.CellsInShared) && decide (c.CellsDistinct) && decide (c.MapsOneHot) && decide (c.TablesShaped) &&
    decide (c.ValuesOk)

/-- The constants of table 4.2 hold the literals the source gives (rule R5). -/
abbrev Cfg.D0Constants (c : Cfg) : Prop :=
  c.vIrqReady = 0x47 ∧ c.vReset = 0x4A ∧ c.vDiag = 0x42 ∧ c.vXlArmed = 0x01 ∧ c.vXlDone = 0xFF ∧
  c.vLockEngage = 0x01 ∧ c.vLockDisengage = 0xFF ∧ c.vMischiefEn = 0x0D ∧ c.vMischiefLevel = 0x0C ∧
  c.vMischiefCredits = 42 ∧ c.creditCeiling = 9 ∧ c.overlapLimit = 8 ∧ c.extendModulus = 6 ∧
  c.levelTargets = ⟨0x00, 0x01, 0x31, 0x62, 0x63, 0x64, 0x65⟩

/-- The named hypothesis `CreeperMeanExact(Cfg)` (rule R147, D35): ten times the sum of creeper table `n` is `n` times its
length. It is no part of validity: a statement that needs it takes it as a premise. -/
abbrev Cfg.CreeperMeanExact (c : Cfg) : Prop :=
  ∀ n, (h : n < c.creepTables.length) → 10 * (c.creepTables[n].map BitVec.toNat).sum = n * c.creepTables[n].length

/-! ### Free values: constants without a body -/

/-- The constant tables a lookup may run past the end of: only under an invalid configuration, or from a cursor that no
run reaches. -/
inductive RomTable where
  /-- creeper table `n` (R141) -/
  | creeper (n : Nat)
  /-- translator table `n` (R185) -/
  | translator (n : Nat)
  /-- the extend rotator's out-of-range table (R178) -/
  | extendOor
  /-- `EXTEND_OOR` below its domain `6..255`, asked for only under an `EXTEND_MODULUS` below 6 (log entry 18) -/
  | extendOorBelow
  /-- controller `c`'s derive table (R122) -/
  | ctrlDerive (c : Fin 2)
deriving DecidableEq, Repr

/-- FREE VALUE: what lies past the end of a constant table, or outside the domain of one. The spec gives no byte there (log
entries 5 and 18). -/
opaque Config.beyondRom : RomTable → Nat → Byte

/-- FREE VALUE: the byte the InputDevice presents at `Inputs[b]` at the `n`-th draw, "a draw under no law" (rules R32,
R43; log entry 4). -/
opaque Config.drawBank : Fin 4 → Nat → Byte

/-- FREE VALUE: the byte the InputDevice presents at `CAB_IN` at the `n`-th draw (rules R24, R32; log entry 4). -/
opaque Config.drawCab : Nat → Byte

end Sys2Proof
end

