-- ==== Sys2Proof/Machine/Reference.lean ====
section
/-!
DEFINITION. The reference configuration `CFG_REF` (rule R7, tables 4.2 to 4.4, and rules R67, R146): the spec's own
choice of the values the source leaves open. It is the configuration the machine has in `State.reset`; no statement
about a run needs it, since a state holds its configuration and statements are made for every state.
-/

namespace Sys2Proof

/-- Reference creeper table `n` (rule R146): entry `j` is `floor((j+1)*n/10) - floor(j*n/10)`, ten entries. -/
def Cfg.refCreeper (n : Nat) : List Byte :=
  (List.range 10).map fun j => BitVec.ofNat 8 ((j + 1) * n / 10 - j * n / 10)

/-- Reference translator table `n` (table 4.4): entry `j` is `(j + n) mod 256`. -/
def Cfg.refTranslator (n : Nat) : List Byte :=
  (List.range 256).map fun j => BitVec.ofNat 8 (j + n)

/-- Reference extend table (rule R178): for the cell values 6 to 255 in order, `(v + 1) mod 256`. -/
def Cfg.refExtendOor : List Byte :=
  (List.range 250).map fun j => BitVec.ofNat 8 (j + 7)

/-- Reference derive table (rule R122): the two low bits of bank 0. -/
def Cfg.refDerive : DipTable := ⟨[(0, 1), (0, 0)], [0, 1, 2, 3]⟩

/-- The reference configuration `CFG_REF`. -/
def Cfg.ref : Cfg where
  vIrqReady := 0x47
  vReset := 0x4A
  vDiag := 0x42
  vXlArmed := 0x01
  vXlDone := 0xFF
  vLockEngage := 0x01
  vLockDisengage := 0xFF
  vMischiefEn := 0x0D
  vMischiefLevel := 0x0C
  vMischiefCredits := 42
  creditCeiling := 9
  overlapLimit := 8
  extendModulus := 6
  levelTargets := ⟨0x00, 0x01, 0x31, 0x62, 0x63, 0x64, 0x65⟩
  aIrqMarker := 0xC05
  aCabMirror := 0xC00
  aBankMirror := #v[0xC01, 0xC02, 0xC03, 0xC04]
  aPhony := 0xC09
  aChanged := 0xC0A
  aLockCmd := 0xC08
  aCtrlCmd := #v[0xC10, 0xC12, 0xC14]
  aCtrlOut := #v[0xC11, 0xC13, 0xC15]
  aCtrlGate := #v[0xC0B, 0xC0B, 0xC0B]
  aPLive := #v[0xC40, 0xC48]
  aPY := #v[0xC41, 0xC49]
  aPX := #v[0xC42, 0xC4A]
  aKillReq := #v[0xC43, 0xC4B]
  aKillIdx := #v[0xC44, 0xC4C]
  aBStage := #v[0xC50, 0xC53, 0xC56, 0xC59, 0xC5C, 0xC5F, 0xC62]
  aBY := #v[0xC51, 0xC54, 0xC57, 0xC5A, 0xC5D, 0xC60, 0xC63]
  aBX := #v[0xC52, 0xC55, 0xC58, 0xC5B, 0xC5E, 0xC61, 0xC64]
  aOVCode := #v[#v[0xC80, 0xC84, 0xC88, 0xC8C, 0xC90, 0xC94, 0xC98],
    #v[0xCA0, 0xCA4, 0xCA8, 0xCAC, 0xCB0, 0xCB4, 0xCB8]]
  aOHCode := #v[#v[0xC81, 0xC85, 0xC89, 0xC8D, 0xC91, 0xC95, 0xC99],
    #v[0xCA1, 0xCA5, 0xCA9, 0xCAD, 0xCB1, 0xCB5, 0xCB9]]
  aOVDist := #v[#v[0xC82, 0xC86, 0xC8A, 0xC8E, 0xC92, 0xC96, 0xC9A],
    #v[0xCA2, 0xCA6, 0xCAA, 0xCAE, 0xCB2, 0xCB6, 0xCBA]]
  aOHDist := #v[#v[0xC83, 0xC87, 0xC8B, 0xC8F, 0xC93, 0xC97, 0xC9B],
    #v[0xCA3, 0xCA7, 0xCAB, 0xCAF, 0xCB3, 0xCB7, 0xCBB]]
  aCreepSel := #v[0xC20, 0xC21, 0xC22, 0xC23]
  aCreepOut := #v[0xC24, 0xC25, 0xC26, 0xC27]
  aClkActive := 0xC18
  aClkHi := 0xC19
  aClkLo := 0xC1A
  aClkDone := 0xC1B
  aMischiefEn := 0xC0C
  aExtend := 0xC0D
  aXlStatus := #v[0xC30, 0xC34, 0xC38]
  aXlTable := #v[0xC31, 0xC35, 0xC39]
  aXlIndex := #v[0xC32, 0xC36, 0xC3A]
  aXlOffset := #v[0xC33, 0xC37, 0xC3B]
  xlBase := #v[0xD00, 0xE00, 0xF00]
  aResetCmd := 0xC06
  aDelayMarker := 0xC07
  vDelayMarker := 0x01
  vChanged := 0x01
  vDone := 0x01
  vKill := 0x01
  codeCentered := 0x00
  codeAboveRight := 0x01
  codeBelowLeft := 0x02
  liveMask := 0x01
  sigSrc := #v[.cab, .cab, .cab]
  sigBit := #v[2, 3, 1]
  priceBank := #v[0, 0]
  priceShift := #v[4, 6]
  price := #v[⟨1, 1⟩, ⟨1, 2⟩, ⟨2, 1⟩, ⟨2, 3⟩]
  creditMap := #v[⟨0x01, 0x02, 0x04, 0x08⟩, ⟨0x01, 0x02, 0x04, 0x08⟩]
  levelMap := ⟨0x01, 0x02, 0x04, 0x08, 0x10, 0x20, 0x40⟩
  ctrlMax := #v[9, 9, 0xFF]
  ctrlDerive := #v[Cfg.refDerive, Cfg.refDerive]
  ctrlOperand := .cache
  creepTables := (List.range 41).map Cfg.refCreeper
  creepSentinel := 0xFF
  xlTables := (List.range 5).map Cfg.refTranslator
  extendOor := Cfg.refExtendOor
  resetZeroesShared := true
  hostInterleave := false

end Sys2Proof
end

