-- ==== Sys2Proof/Decode.lean ====
section
/-!
DEFINITION. The decoder and, after it, the encoder, for the three formats of the opcode table: `SLOT` (rule R60),
`CMD8` (rules R61 to R67) and the host script (rule R73). A `CMD8` byte means something only together with the cell it
stands in, so both functions take the cell; and the command values are configuration fields, so both take the
configuration.
-/

namespace Sys2Proof

/-- The cells whose whole-byte value selects a behaviour (rules R62, R63). -/
inductive CmdCell where
  /-- `A_IRQ_MARKER` -/
  | irqMarker
  /-- `A_LOCK_CMD` -/
  | lockCmd
  /-- `A_CTRL_CMD[c]` -/
  | ctrlCmd (c : Fin 3)
  /-- `A_CTRL_GATE[c]` -/
  | ctrlGate (c : Fin 3)
  /-- `A_MISCHIEF_EN` -/
  | mischiefEn
  /-- `A_XL_STATUS[t]` -/
  | xlStatus (t : Fin 3)
  /-- `A_RESET_CMD` -/
  | resetCmd
  /-- `A_DELAY_MARKER` -/
  | delayMarker
deriving DecidableEq, Repr

/-- One encoded instruction. -/
inductive Encoding where
  /-- format `SLOT`: the 5-bit slot number, the value of `pc` (R60) -/
  | slot (w : BitVec 5)
  /-- format `CMD8`: a cell and the byte it holds (R61) -/
  | cmd (cell : CmdCell) (v : Byte)
  /-- the bytes of one host-script line (R73) -/
  | script (bytes : List Byte)
deriving DecidableEq, Repr

/-- Why an encoding is no instruction. -/
inductive DecodeError where
  /-- a 5-bit value above 20: the sequence has 21 slots (R60) -/
  | noSuchSlot (w : BitVec 5)
  /-- the cell holds a byte that is no row of the table: a no-op value (R70) or one without meaning (R71) -/
  | noSuchCommand (cell : CmdCell) (v : Byte)
  /-- the first byte of the line is none of rule R73's six -/
  | noSuchLine (b : Byte)
  /-- the line ends before its operand bytes do -/
  | truncatedLine (b : Byte)
  /-- the `0b` byte of an `IN` line names no bank `0..3` -/
  | noSuchBank (b : Byte)
deriving DecidableEq, Repr

/-- The operations of a credit-variant controller (rule R65). -/
inductive CreditOp where
  | derive
  | inc
  | dec
  | setMax
deriving DecidableEq, Repr

/-- The operations of the level-variant controller, its seven targets (rule R66). -/
inductive LevelOp where
  | set00
  | inc
  | set31
  | set62
  | set63
  | set64
  | set65
deriving DecidableEq, Repr

/-! ### Decoding -/

/-- Format `SLOT` (rule R60): the fixed dispatch sequence. -/
def decodeSlot (w : BitVec 5) : Except DecodeError Instr :=
  match w.toNat with
  | 0 => .ok .irq
  | 1 => .ok .inrel
  | 2 => .ok .credit
  | 3 => .ok .lock
  | 4 => .ok .ctrl0
  | 5 => .ok .ctrl1
  | 6 => .ok .ctrl2
  | 7 => .ok .beast0
  | 8 => .ok .beast1
  | 9 => .ok .creep0
  | 10 => .ok .creep1
  | 11 => .ok .creep2
  | 12 => .ok .creep3
  | 13 => .ok .clock
  | 14 => .ok .mischief
  | 15 => .ok .extend
  | 16 => .ok .xlat0
  | 17 => .ok .xlat1
  | 18 => .ok .xlat2
  | 19 => .ok .rstw
  | 20 => .ok .delay
  | _ => .error (.noSuchSlot w)

/-- The operation a byte selects in a credit-variant map, `CTRL_MAP[c]` for `c = 0, 1` (rules R64, R65); the byte is
compared whole. -/
def CreditMap.op (m : CreditMap) (v : Byte) : Option CreditOp :=
  if v = m.deriveCmd then some .derive
  else if v = m.incCmd then some .inc
  else if v = m.decCmd then some .dec
  else if v = m.setMaxCmd then some .setMax
  else none

/-- The operation a byte selects in the level-variant map, `CTRL_MAP[2]` (rules R64, R66). -/
def LevelMap.op (m : LevelMap) (v : Byte) : Option LevelOp :=
  if v = m.set00Cmd then some .set00
  else if v = m.incCmd then some .inc
  else if v = m.set31Cmd then some .set31
  else if v = m.set62Cmd then some .set62
  else if v = m.set63Cmd then some .set63
  else if v = m.set64Cmd then some .set64
  else if v = m.set65Cmd then some .set65
  else none

/-- Controller 0's instruction for an operation. -/
def CreditOp.instr0 : CreditOp → Instr
  | .derive => .ctrl0Derive
  | .inc => .ctrl0Inc
  | .dec => .ctrl0Dec
  | .setMax => .ctrl0SetMax

/-- Controller 1's instruction for an operation. -/
def CreditOp.instr1 : CreditOp → Instr
  | .derive => .ctrl1Derive
  | .inc => .ctrl1Inc
  | .dec => .ctrl1Dec
  | .setMax => .ctrl1SetMax

/-- Controller 2's instruction for an operation. -/
def LevelOp.instr2 : LevelOp → Instr
  | .set00 => .ctrl2Set00
  | .inc => .ctrl2Inc
  | .set31 => .ctrl2Set31
  | .set62 => .ctrl2Set62
  | .set63 => .ctrl2Set63
  | .set64 => .ctrl2Set64
  | .set65 => .ctrl2Set65

/-- A controller's command byte: 0 is `CTRL.IDLE`, any other value goes through the controller's map (R62, R64). -/
def decodeCtrl (cfg : Cfg) (c : Fin 3) (v : Byte) : Option Instr :=
  if v = 0 then some (.ctrlIdle c)
  else match c with
    | 0 => (cfg.creditMap[0].op v).map CreditOp.instr0
    | 1 => (cfg.creditMap[1].op v).map CreditOp.instr1
    | 2 => (cfg.levelMap.op v).map LevelOp.instr2

/-- Format `CMD8` (rules R61 to R63): the whole byte is compared; `none` is a value that is no row of the table. -/
def decodeCmd (cfg : Cfg) : CmdCell → Byte → Option Instr
  | .irqMarker, v => if v = cfg.vIrqReady then some .irqReady else none
  | .lockCmd, v =>
    if v = cfg.vLockEngage then some .lockEngage
    else if v = cfg.vLockDisengage then some .lockDisengage
    else none
  | .ctrlCmd c, v => decodeCtrl cfg c v
  | .ctrlGate c, v => if v = cfg.vDiag then some (.diagGate c) else none
  | .mischiefEn, v => if v = cfg.vMischiefEn then some .mischiefEn else none
  | .xlStatus t, v =>
    if v = cfg.vXlArmed then some (.xlatArm t)
    else if v = cfg.vXlDone then some (.xlatDone t)
    else none
  | .resetCmd, v => if v = cfg.vReset then some .rstWarm else none
  | .delayMarker, v => if v = cfg.vDelayMarker then some .delayMark else none

/-- The 16-bit address `ah al` of a host-script line, high byte first (rule R73). -/
def halfOf (hi lo : Byte) : Half := hi ++ lo

/-- One host-script line (rule R73) and the bytes after it. -/
def decodeScript : List Byte → Except DecodeError (Instr × List Byte)
  | [] => .error (.truncatedLine 0)
  | b :: rest =>
    if b = 0x57 then
      match rest with
      | ah :: al :: v :: rest' => .ok (.hw (halfOf ah al) v, rest')
      | _ => .error (.truncatedLine b)
    else if b = 0x52 then
      match rest with
      | ah :: al :: v :: rest' => .ok (.hr (halfOf ah al) v, rest')
      | _ => .error (.truncatedLine b)
    else if b = 0x49 then
      match rest with
      | k :: v :: rest' => if h : k.toNat < 4 then .ok (.inp ⟨k.toNat, h⟩ v, rest') else .error (.noSuchBank k)
      | _ => .error (.truncatedLine b)
    else if b = 0x43 then
      match rest with
      | v :: rest' => .ok (.cab v, rest')
      | _ => .error (.truncatedLine b)
    else if b = 0x54 then .ok (.tick, rest)
    else if b = 0x58 then .ok (.reset, rest)
    else .error (.noSuchLine b)

/-- The decoder, total on every encoding; a script line must be used up whole. -/
def decode (cfg : Cfg) : Encoding → Except DecodeError Instr
  | .slot w => decodeSlot w
  | .cmd cell v =>
    match decodeCmd cfg cell v with
    | some i => .ok i
    | none => .error (.noSuchCommand cell v)
  | .script bytes =>
    match decodeScript bytes with
    | .ok (i, []) => .ok i
    | .ok (_, b :: _) => .error (.noSuchLine b)
    | .error e => .error e

/-! ### Encoding -/

/-- The first byte of an address, `ah` (rule R73). -/
def highByte (a : Half) : Byte := a.extractLsb' 8 8

/-- The second byte of an address, `al` (rule R73). -/
def lowByte (a : Half) : Byte := a.extractLsb' 0 8

/-- The encoding of an instruction, from the tables of rules R60, R62, R63, R67 and R73. -/
def encode (cfg : Cfg) : Instr → Encoding
  | .irq => .slot 0
  | .inrel => .slot 1
  | .credit => .slot 2
  | .lock => .slot 3
  | .ctrl0 => .slot 4
  | .ctrl1 => .slot 5
  | .ctrl2 => .slot 6
  | .beast0 => .slot 7
  | .beast1 => .slot 8
  | .creep0 => .slot 9
  | .creep1 => .slot 10
  | .creep2 => .slot 11
  | .creep3 => .slot 12
  | .clock => .slot 13
  | .mischief => .slot 14
  | .extend => .slot 15
  | .xlat0 => .slot 16
  | .xlat1 => .slot 17
  | .xlat2 => .slot 18
  | .rstw => .slot 19
  | .delay => .slot 20
  | .irqReady => .cmd .irqMarker cfg.vIrqReady
  | .lockEngage => .cmd .lockCmd cfg.vLockEngage
  | .lockDisengage => .cmd .lockCmd cfg.vLockDisengage
  | .ctrlIdle c => .cmd (.ctrlCmd c) 0
  | .diagGate c => .cmd (.ctrlGate c) cfg.vDiag
  | .mischiefEn => .cmd .mischiefEn cfg.vMischiefEn
  | .xlatArm t => .cmd (.xlStatus t) cfg.vXlArmed
  | .xlatDone t => .cmd (.xlStatus t) cfg.vXlDone
  | .rstWarm => .cmd .resetCmd cfg.vReset
  | .delayMark => .cmd .delayMarker cfg.vDelayMarker
  | .ctrl0Derive => .cmd (.ctrlCmd 0) cfg.creditMap[0].deriveCmd
  | .ctrl0Inc => .cmd (.ctrlCmd 0) cfg.creditMap[0].incCmd
  | .ctrl0Dec => .cmd (.ctrlCmd 0) cfg.creditMap[0].decCmd
  | .ctrl0SetMax => .cmd (.ctrlCmd 0) cfg.creditMap[0].setMaxCmd
  | .ctrl1Derive => .cmd (.ctrlCmd 1) cfg.creditMap[1].deriveCmd
  | .ctrl1Inc => .cmd (.ctrlCmd 1) cfg.creditMap[1].incCmd
  | .ctrl1Dec => .cmd (.ctrlCmd 1) cfg.creditMap[1].decCmd
  | .ctrl1SetMax => .cmd (.ctrlCmd 1) cfg.creditMap[1].setMaxCmd
  | .ctrl2Set00 => .cmd (.ctrlCmd 2) cfg.levelMap.set00Cmd
  | .ctrl2Inc => .cmd (.ctrlCmd 2) cfg.levelMap.incCmd
  | .ctrl2Set31 => .cmd (.ctrlCmd 2) cfg.levelMap.set31Cmd
  | .ctrl2Set62 => .cmd (.ctrlCmd 2) cfg.levelMap.set62Cmd
  | .ctrl2Set63 => .cmd (.ctrlCmd 2) cfg.levelMap.set63Cmd
  | .ctrl2Set64 => .cmd (.ctrlCmd 2) cfg.levelMap.set64Cmd
  | .ctrl2Set65 => .cmd (.ctrlCmd 2) cfg.levelMap.set65Cmd
  | .hw a v => .script [0x57, highByte a, lowByte a, v]
  | .hr a v => .script [0x52, highByte a, lowByte a, v]
  | .inp b v => .script [0x49, BitVec.ofNat 8 b.val, v]
  | .cab v => .script [0x43, v]
  | .tick => .script [0x54]
  | .reset => .script [0x58]

/-! ### The table's words -/

/-- The bytes of a table word, the first byte in its low eight bits, to the length of the longest instruction (the four
bytes of an `HW` line). -/
def tableBytes (w : Nat) : List Byte :=
  [BitVec.ofNat 8 w, BitVec.ofNat 8 (w / 0x100), BitVec.ofNat 8 (w / 0x10000), BitVec.ofNat 8 (w / 0x1000000)]

/-- The `CMD8` rows a byte alone could stand for, the cells tried in the order of rule R62. -/
def decodeLoneCommand (cfg : Cfg) (v : Byte) : Option Instr :=
  [CmdCell.irqMarker, .lockCmd, .ctrlCmd 0, .ctrlGate 0, .mischiefEn, .xlStatus 0, .resetCmd, .delayMarker,
    .ctrlCmd 1, .ctrlCmd 2].findSome? fun cell => decodeCmd cfg cell v

/-- The instruction a word of the opcode table stands for. The table's rows of one byte overlap (the byte `0x01` is a slot
number and six commands), because the place the byte stands in is part of the encoding and the word does not hold it;
so a word is read as a slot number first, then as a host-script line, then as a command under `CFG_REF` (log entry 8). -/
def decodeTable (nbits w : Nat) : Option Instr :=
  if 2 ^ nbits ≤ w then none
  else if w < 32 then
    match decodeSlot (BitVec.ofNat 5 w) with
    | .ok i => some i
    | .error _ => decodeLoneCommand Cfg.ref (BitVec.ofNat 8 w)
  else
    match decodeScript (tableBytes w) with
    | .ok (i, _) => some i
    | .error _ => if w < 256 then decodeLoneCommand Cfg.ref (BitVec.ofNat 8 w) else none

/-- The instruction the decoder reads from a word of the opcode table; see `decodeTable`. -/
def decodeTableWord (nbits w : Nat) : Option Instr := decodeTable nbits w

end Sys2Proof
end

