-- ==== Sys2Proof/Machine/Memory.lean ====
section
/-!
DEFINITION. The backing store of `Shared` (rules R41, R43): a list of (address, byte) cells in one canonical form,
addresses strictly rising inside `0xC00..0xFFF` and no entry 0, since an unlisted address reads as 0, the reset value of
every byte (rules R28, R230, R232).
-/

namespace Sys2Proof.Machine

/-- The contents of `Shared`: the cells that are not 0. -/
abbrev Memory := List Host.Cell

/-- What an address that the list does not hold reads as: the reset value 0 (rules R28, R230). -/
def Memory.unlisted : Byte := 0

/-- The byte at address `a`. -/
def Memory.get : Memory → Nat → Byte
  | [], _ => Memory.unlisted
  | (b, w) :: rest, a => if b = a then w else Memory.get rest a

/-- The memory without any entry for address `a`. -/
def Memory.erase : Memory → Nat → Memory
  | [], _ => []
  | (b, w) :: rest, a => if b = a then Memory.erase rest a else (b, w) :: Memory.erase rest a

/-- The entry `(a, v)` put before the first entry of a higher address. -/
def Memory.insert : Memory → Nat → Byte → Memory
  | [], a, v => [(a, v)]
  | (b, w) :: rest, a, v => if b < a then (b, w) :: Memory.insert rest a v else (a, v) :: (b, w) :: rest

/-- Byte `v` written at address `a`; writing the unlisted value removes the entry, so equal memories are equal lists. -/
def Memory.put (m : Memory) (a : Nat) (v : Byte) : Memory :=
  if v = Memory.unlisted then m.erase a else (m.erase a).insert a v

/-- The canonical form: every address is in `Shared`, the addresses rise strictly, no entry is the unlisted value. -/
def Memory.wf : Memory → Bool
  | [] => true
  | (a, v) :: rest =>
    decide (InShared a) && v != Memory.unlisted && rest.all (fun c => decide (a < c.1)) && Memory.wf rest

end Sys2Proof.Machine
end

