-- ==== Sys2Proof/Machine/State.lean ====
section
/-!
DEFINITION. The state of the machine as plain data, why a step can stop, and the state after reset. The CORE's
registers are those of rule R10, the slot counter that of rule R23, the ports and the trace those of rules R24 to R26,
`Shared` that of rule R41. Under `the environment` stand the model's own fields: what the HOST, the InputDevice and
the power switch are going to do, which the spec puts outside the CORE (rules R6, R32, R52, R73, R231).
-/

namespace Sys2Proof.Machine

/-- The two output ports (rule R24). -/
inductive Port where
  /-- the interrupt line to the HOST (R25) -/
  | irqOut
  /-- the coin lockout bit (R26) -/
  | lockout
deriving DecidableEq, Repr

/-- The three signals of the credit tracker (rule R13). -/
inductive Signal where
  | coinA
  | coinB
  | service
deriving DecidableEq, Repr

/-- Why the spec's machine refuses an input it has no meaning for (rule R203), a closed list. -/
inductive RefuseReason where
  /-- a nonzero command byte outside the controller's map (R129) -/
  | unmappedCommand (c : Fin 3) (cmd : Byte)
  /-- a latched creeper selector above 40 (R145) -/
  | creeperSelector (k : Fin 4) (n : Byte)
  /-- a table selector above 4 while armed (R191) -/
  | translatorTable (t : Fin 3) (n : Byte)
deriving DecidableEq, Repr

/-- The register `status` (rule R20): only `running` lets a tick run. -/
inductive Status where
  | running
  /-- controller `c`'s failed consistency check (R201) -/
  | poisoned (c : Fin 3)
  /-- a bus access outside the two regions, with its address (R202). The address is recorded as it was formed, unbounded: an
  invalid configuration can form one above `0xFFFF` (R189), for which rule R202's 16 bits give no value. DESIGN CHOICE, log
  entry 19. -/
  | faulted (a : Nat)
  /-- an input without meaning (R203) -/
  | refused (r : RefuseReason)
deriving DecidableEq, Repr

/-- The slot counter (rule R23): a slot `0..20`, or `IDLE` between ticks. -/
inductive Pc where
  | idle
  | slot (n : Fin 21)
deriving DecidableEq, Repr

/-- One HOST write that falls inside a tick (rule R52): the cell `0xC00 + off` and the byte. -/
structure HostWrite where
  off : BitVec 10
  val : Byte
deriving DecidableEq, Repr

/-- What one `HR` line of the host script read, and what it asserts (rule R73). -/
structure HostRead where
  addr     : Half
  got      : Byte
  expected : Byte
deriving DecidableEq, Repr

/-- The state of the machine. -/
structure State where
  /-- the configuration record (R7); no step writes it -/
  cfg : Cfg
  /-- `bank[b]`: this tick's copy of `Inputs[b]` (R11) -/
  bank : Vector Byte 4
  /-- `cabLatch`: this tick's copy of the cabinet byte (R12) -/
  cabLatch : Byte
  /-- `prev[s]`: the previous-frame bit of signal `s`, in the order coin A, coin B, service (R13) -/
  prev : Vector Bool 3
  /-- `partial[l]`: the partial-coin counter of line `l`, in the order A, B (R14) -/
  partialCoins : Vector Byte 2
  /-- `ctrlCache[c]` (R15) -/
  ctrlCache : Vector Byte 3
  /-- `creepTable[k]`: the latched selector (R16) -/
  creepTable : Vector Byte 4
  /-- `creepIdx[k]`: the cursor (R16) -/
  creepIdx : Vector Byte 4
  /-- `pY`, `pX`: the player position of the current sweep (R17) -/
  pY : Byte
  pX : Byte
  /-- `yOverlap`: the Y-overlap counter of the current sweep (R18) -/
  yOverlap : Byte
  /-- `beastIdx`: the loop index of the current sweep (R19) -/
  beastIdx : BitVec 3
  /-- `status` (R20) -/
  status : Status
  /-- `pc`, the slot counter (R23) -/
  pc : Pc
  /-- the level of `IRQ_OUT`, `true` for high (R25) -/
  irqOut : Bool
  /-- the level of `LOCKOUT`, `true` for engaged (R26) -/
  lockout : Bool
  /-- the output trace: every port drive, the oldest first (R26) -/
  trace : List (Port × Bool)
  /-- the bytes of `Shared` (R41, R43) -/
  shared : Memory
  -- the environment
  /-- the byte the InputDevice holds at `Inputs[b]` because an `IN` line said so; `none` while no line has (R32, R73) -/
  heldBank : Vector (Option Byte) 4
  /-- the byte held at `CAB_IN` because a `CAB` line said so (R32, R73) -/
  heldCab : Option Byte
  /-- how many free input values have been drawn; the model's own counter (R32) -/
  draws : Nat
  /-- the host-script bytes not yet executed (R73) -/
  script : List Byte
  /-- what the `HR` lines read, the oldest first; the model's record (R73) -/
  hostReads : List HostRead
  /-- the HOST writes to come inside ticks: one group before each CORE byte access, the next first (R52) -/
  hostRace : List (List HostWrite)
  /-- the cold resets to come inside ticks: each is due that many CORE accesses after the one before it, the first counted
  from now (R231) -/
  coldResets : List Nat
deriving DecidableEq, Repr

/-- Why a step stops with a fault. The CORE's own terminal conditions are not here: they are values of `status`. -/
inductive Fault where
  /-- Raised by an `HW` or `HR` line whose address is outside what rule R42 lets the HOST write or read. Rule R73 gives
  such a line no meaning. Safe: the model stops. -/
  | hostAddressOutOfRange (a : Nat)
deriving DecidableEq, Repr

/-- Why a step is refused. -/
inductive Refusal where
  /-- Raised by an arm of `exec` whose instruction has no meaning yet. Safe: the model stops. -/
  | notModelled (mnemonic : String)
  /-- Raised by `step` on bytes that are no instruction: a host script that rule R73 does not define. Safe: the model
  stops. -/
  | undecodable (e : DecodeError)
  /-- Raised by `powerOn` on a configuration that rule R7 calls invalid (U5, U13). Safe: no machine starts. -/
  | invalidConfiguration
deriving DecidableEq, Repr

/-- Nothing the environment does falls into a tick: no cold reset is due, and the HOST keeps out, either because the
configuration makes ticks atomic (rule R51) or because it has nothing to write. -/
abbrev State.Quiet (s : State) : Prop :=
  s.coldResets = [] ∧ (s.cfg.hostInterleave = false ∨ s.hostRace = [])

/-- The reset state of rule R230 with configuration `cfg` and the bytes `shared` in `Shared`: with `RESET_ZEROES_SHARED`
true every byte is 0; with it false `shared` may be anything (rule R232). `powerOn` says for which `cfg` there is such a
machine. -/
def State.fresh (cfg : Cfg) (shared : Memory) : State where
  cfg := cfg
  bank := #v[0, 0, 0, 0]
  cabLatch := 0
  prev := #v[false, false, false]
  partialCoins := #v[0, 0]
  ctrlCache := #v[0, 0, 0]
  creepTable := #v[0, 0, 0, 0]
  creepIdx := #v[0, 0, 0, 0]
  pY := 0
  pX := 0
  yOverlap := 0
  beastIdx := 0
  status := .running
  pc := .idle
  irqOut := false
  lockout := false
  trace := []
  shared := if cfg.resetZeroesShared then [] else shared
  heldBank := #v[none, none, none, none]
  heldCab := none
  draws := 0
  script := []
  hostReads := []
  hostRace := []
  coldResets := []

/-- The machine right after a cold reset (rule R230), under the reference configuration (log entry 1). -/
def State.reset : State := State.fresh Cfg.ref []

end Sys2Proof.Machine
end

