-- ==== Sys2Proof/Machine/Ops.lean ====
section
/-!
DEFINITION. The named operations over the state that every slot is written with (rule R9): bus and port accesses,
register accesses, raising a terminal status, reset, and running one slot to its end. An access is also the point
where the environment can cut in: a cold reset (rule R231) or, under `HOST_INTERLEAVE`, HOST writes (rule R52).
-/

namespace Sys2Proof.Machine

/-- Why a slot ended before its last access. -/
inductive Stop where
  /-- a terminal status was recorded (R204) -/
  | terminal
  /-- a reset put the machine into its reset state (R196, R231) -/
  | restarted
deriving DecidableEq, Repr

/-- A piece of a slot: from a state, either a value and the next state, or an early end with the state it leaves. -/
abbrev SlotM (α : Type) := EStateM Stop State α

/-! ### Registers -/

/-- `x[NAME]`: read a register (rule R9). -/
def reg {α : Type} (f : State → α) : SlotM α := fun s => .ok (f s) s

/-- `x[NAME] <- v`: write a register (rule R9). -/
def update (f : State → State) : SlotM Unit := fun s => .ok () (f s)

/-! ### Reset -/

/-- Rule R230, for a cold and for a warm reset alike: registers, status, slot counter and output ports go to their reset
values; the trace is unchanged; `Shared` goes to 0 or stays, as `RESET_ZEROES_SHARED` says (rule R232). The
configuration and the environment are not the CORE's state. -/
def State.restart (s : State) : State :=
  { s with
    bank := #v[0, 0, 0, 0], cabLatch := 0, prev := #v[false, false, false], partialCoins := #v[0, 0],
    ctrlCache := #v[0, 0, 0], creepTable := #v[0, 0, 0, 0], creepIdx := #v[0, 0, 0, 0],
    pY := 0, pX := 0, yOverlap := 0, beastIdx := 0, status := .running, pc := .idle,
    irqOut := false, lockout := false,
    shared := if s.cfg.resetZeroesShared then [] else s.shared }

/-- A reset inside a slot: the reset state, and the tick ends (rules R196, R231). -/
def restartNow : SlotM Unit := fun s => .error .restarted s.restart

/-! ### Terminal conditions -/

/-- `raise` and `refuse` (rules R9, R204), the one way to stop: what the slot did so far stays, `pc` stays, `status`
takes the terminal value, nothing is saved and no cell is written. There is no handler and no return (rules R211,
R212): only a reset leaves the status, and of resets only a cold one can come (rule R231). -/
def raise {α : Type} (st : Status) : SlotM α := fun s => .error .terminal { s with status := st }

/-! ### The environment's access points -/

/-- A cold reset "in every state including mid-tick" (rule R231): the environment's countdown runs at each CORE access, and at
its end the reset comes before the access; the countdown to the reset after it, if there is one, then begins. -/
def coldResetPoint : SlotM Unit := fun s =>
  match s.coldResets with
  | [] => .ok () s
  | 0 :: later => .error .restarted { s with coldResets := later }.restart
  | (n + 1) :: later => .ok () { s with coldResets := n :: later }

/-- The bus address of a HOST write inside a tick. -/
def HostWrite.addr (w : HostWrite) : Nat := 0xC00 + w.off.toNat

/-- The HOST writes of one group, in order. -/
def Memory.hostWrites (m : Memory) (ws : List HostWrite) : Memory :=
  ws.foldl (fun m w => m.put w.addr w.val) m

/-- Rule R52: with `HOST_INTERLEAVE` true, HOST accesses may fall before any CORE byte access; the environment says which,
one group for each access. With it false none does (rule R51). A HOST read changes nothing, so a group is writes. -/
def hostPoint : SlotM Unit := fun s =>
  if s.cfg.hostInterleave then
    match s.hostRace with
    | [] => .ok () s
    | ws :: rest => .ok () { s with shared := s.shared.hostWrites ws, hostRace := rest }
  else .ok () s

/-! ### The bus (rules R40 to R44) -/

/-- The byte the InputDevice presents at `Inputs[b]` now (rules R32, R43): the one a script line holds there, else a free
value. Reading changes nothing but the model's count of draws. -/
def State.sampleBank (s : State) (b : Fin 4) : Byte × State :=
  match s.heldBank[b] with
  | some v => (v, s)
  | none => (Config.drawBank b s.draws, { s with draws := s.draws + 1 })

/-- The byte the InputDevice presents at `CAB_IN` now (rules R24, R32). -/
def State.sampleCab (s : State) : Byte × State :=
  match s.heldCab with
  | some v => (v, s)
  | none => (Config.drawCab s.draws, { s with draws := s.draws + 1 })

/-- One bus read, by either agent (rules R41 to R43); `none` is an address outside the two regions. -/
def State.busRead (s : State) (a : Nat) : Option (Byte × State) :=
  if h : InInputs a then some (s.sampleBank ⟨a, h⟩)
  else if InShared a then some (s.shared.get a, s)
  else none

/-- One bus write, by either agent (rules R41 to R43): only `Shared` can be written. -/
def State.busWrite (s : State) (a : Nat) (v : Byte) : Option State :=
  if InShared a then some { s with shared := s.shared.put a v } else none

/-- The read itself, or the raise of rule R42. -/
def readNow (a : Nat) : SlotM Byte := fun s =>
  match s.busRead a with
  | some (v, s') => .ok v s'
  | none => (raise (.faulted a)).run s

/-- The write itself, or the raise of rule R42. -/
def writeNow (a : Nat) (v : Byte) : SlotM Unit := fun s =>
  match s.busWrite a v with
  | some s' => .ok () s'
  | none => (raise (.faulted a)).run s

/-- `MemRead(a, 1)` in a slot (rule R9), raising `AddressOutOfRange(a)` as rule R42 says. -/
def memRead (a : Nat) : SlotM Byte := do
  coldResetPoint
  hostPoint
  readNow a

/-- `MemWrite(a, 1, v)` in a slot (rule R9), raising `AddressOutOfRange(a)` as rule R42 says. -/
def memWrite (a : Nat) (v : Byte) : SlotM Unit := do
  coldResetPoint
  hostPoint
  writeNow a v

/-! ### The ports (rules R24 to R26) -/

/-- The sample of `CAB_IN` itself. -/
def readCabNow : SlotM Byte := fun s => .ok s.sampleCab.1 s.sampleCab.2

/-- `PortRead(CAB_IN)` (rule R9). -/
def readCab : SlotM Byte := do
  coldResetPoint
  readCabNow

/-- The port `p` driven to level `l`, with its entry in the trace (rules R25, R26). -/
def State.drive (s : State) (p : Port) (l : Bool) : State :=
  match p with
  | .irqOut => { s with irqOut := l, trace := s.trace ++ [(p, l)] }
  | .lockout => { s with lockout := l, trace := s.trace ++ [(p, l)] }

/-- `PortWrite(p, l)` in a slot (rule R9). -/
def portWrite (p : Port) (l : Bool) : SlotM Unit := do
  coldResetPoint
  update fun s => s.drive p l

/-- `Engage()` (rule R109). -/
def engage : SlotM Unit := portWrite .lockout true

/-- `Disengage()` (rule R109). -/
def disengage : SlotM Unit := portWrite .lockout false

/-! ### Slots -/

/-- The slot after `n`: `n + 1`, and after slot 20 `IDLE` (rule R23). -/
def nextPc (n : Fin 21) : Pc := if h : n.val + 1 < 21 then .slot ⟨n.val + 1, h⟩ else .idle

/-- One slot of the tick (rules R23, R80): `pc <- n`, the operation, and on completion the next slot; a slot that ends
early leaves the state its end left (rules R196, R204). -/
def runSlot (n : Fin 21) (op : SlotM Unit) (s : State) : Host.Outcome State Fault Refusal :=
  match op.run { s with pc := .slot n } with
  | .ok _ s' => .next { s' with pc := nextPc n }
  | .error _ s' => .next s'

end Sys2Proof.Machine
end

