-- ==== Sys2Proof/Machine/Operands.lean ====
section
/-!
DEFINITION. The operand forms of the slots: where a signal bit, a price, a controller operand, a table byte comes from,
and the byte arithmetic of rule R89.
-/

namespace Sys2Proof.Machine

/-! ### Arithmetic (rule R89) -/

/-- Saturating increment, `min(v + n, MAX)` over the unbounded integers (rules R89(c), R123). -/
def incClamp (v n max : Byte) : Byte := BitVec.ofNat 8 (min (v.toNat + n.toNat) max.toNat)

/-- `(v + 1) mod m` (rules R89(g), R177). -/
def incMod (v m : Byte) : Byte := BitVec.ofNat 8 ((v.toNat + 1) % m.toNat)

/-- The comparison function of rule R154: direction code and absolute distance of a player and a beastie coordinate. -/
def compareCoord (cfg : Cfg) (pv bv : Byte) : Byte × Byte :=
  if pv = bv then (cfg.codeCentered, 0)
  else if pv < bv then (cfg.codeAboveRight, bv - pv)
  else (cfg.codeBelowLeft, pv - bv)

/-! ### Constant tables -/

/-- Entry `i` of a constant table; past its end a free value, since the spec gives no byte there (log entry 5). -/
def romByte (id : RomTable) (t : List Byte) (i : Nat) : Byte := (t[i]?).getD (Config.beyondRom id i)

/-- Creeper table `n` (rule R141). -/
def creeperTable (cfg : Cfg) (n : Byte) : List Byte := cfg.creepTables.getD n.toNat []

/-- `CREEP_TABLE[n][i]` (rule R142). -/
def creeperByte (cfg : Cfg) (n : Byte) (i : Nat) : Byte := romByte (.creeper n.toNat) (creeperTable cfg n) i

/-- `XL_TABLE[n][j]` (rules R187, R188). -/
def translatorByte (cfg : Cfg) (n j : Byte) : Byte :=
  romByte (.translator n.toNat) (cfg.xlTables.getD n.toNat []) j.toNat

/-- `EXTEND_OOR(v)` (rule R178): the table lists the values 6 to 255. Below 6 the function has no value; it is asked for
there only under an `EXTEND_MODULUS` below 6, and the byte is then free (log entry 18). -/
def extendOorByte (cfg : Cfg) (v : Byte) : Byte :=
  if v.toNat < 6 then Config.beyondRom .extendOorBelow v.toNat
  else romByte .extendOor cfg.extendOor (v.toNat - 6)

/-- The index that the listed bits of the four bank bytes make, the first bit the most significant (rule R122). -/
def dipIndex (bank : Vector Byte 4) (bits : List (Fin 4 × Fin 8)) : Nat :=
  bits.foldl (fun n p => 2 * n + (bank[p.1].getLsbD p.2.val).toNat) 0

/-- `CTRL_DERIVE[c]` of the four bank samples (rule R122). -/
def deriveByte (cfg : Cfg) (c : Fin 2) (bank : Vector Byte 4) : Byte :=
  romByte (.ctrlDerive c) cfg.ctrlDerive[c].table (dipIndex bank cfg.ctrlDerive[c].bits)

/-! ### Credit tracker operands -/

/-- A signal's place in `prev`, `SIG_SRC` and `SIG_BIT` (rule R13). -/
def Signal.idx : Signal → Fin 3
  | .coinA => 0
  | .coinB => 1
  | .service => 2

/-- The signal of coin line `l`, line A being 0 and line B 1 (rule R103). -/
def coinSignal (l : Fin 2) : Signal := if l = 0 then .coinA else .coinB

/-- `Sig(s)`: this frame's bit of a signal (rule R101). -/
def State.sig (s : State) (g : Signal) : Bool :=
  let src := match s.cfg.sigSrc[g.idx] with
    | .cab => s.cabLatch
    | .bank b => s.bank[b]
  src.getLsbD s.cfg.sigBit[g.idx].val

/-- The two DIP bits of line `l`, `(x[bank[PRICE_BANK[l]]] >> PRICE_SHIFT[l]) & 3` (rule R103). -/
def State.priceIndex (s : State) (l : Fin 2) : BitVec 2 :=
  s.bank[s.cfg.priceBank[l]].extractLsb' s.cfg.priceShift[l].val 2

/-- The price of line `l` (rule R103). -/
def State.priceOf (s : State) (l : Fin 2) : Price := s.cfg.price[(s.priceIndex l).toNat]'(s.priceIndex l).isLt

/-! ### Controller operands -/

/-- `Operand(c)`, the value `INC` and `DEC` start from (rule R123). -/
def operand (c : Fin 3) : SlotM Byte := do
  let cfg ← reg (·.cfg)
  match cfg.ctrlOperand with
  | .cache => reg (fun s => s.ctrlCache[c])
  | .output => memRead cfg.aCtrlOut[c]

/-- What `INC` adds: 1 on a credit variant (rule R123), the level variant's target "+1" (rules R5, R130). -/
def incAmount (cfg : Cfg) (c : Fin 3) : Byte := if c = 2 then cfg.levelTargets.plus else 1

/-! ### Cells of the `CMD8` format -/

/-- The bus address of a command cell (rules R62, R63). -/
def cellAddr (cfg : Cfg) : CmdCell → Nat
  | .irqMarker => cfg.aIrqMarker
  | .lockCmd => cfg.aLockCmd
  | .ctrlCmd c => cfg.aCtrlCmd[c]
  | .ctrlGate c => cfg.aCtrlGate[c]
  | .mischiefEn => cfg.aMischiefEn
  | .xlStatus t => cfg.aXlStatus[t]
  | .resetCmd => cfg.aResetCmd
  | .delayMarker => cfg.aDelayMarker

/-- The slot that reads a command cell (rules R62, R63). -/
def cellSlot : CmdCell → Fin 21
  | .irqMarker => 0
  | .lockCmd => 3
  | .ctrlCmd c => ⟨4 + c.val, by omega⟩
  | .ctrlGate c => ⟨4 + c.val, by omega⟩
  | .mischiefEn => 14
  | .xlStatus t => ⟨16 + t.val, by omega⟩
  | .resetCmd => 19
  | .delayMarker => 20

/-- The slots of the replicated subsystems (rule R60). -/
def ctrlSlot (c : Fin 3) : Fin 21 := ⟨4 + c.val, by omega⟩
def beastSlot (p : Fin 2) : Fin 21 := ⟨7 + p.val, by omega⟩
def creepSlot (k : Fin 4) : Fin 21 := ⟨9 + k.val, by omega⟩
def xlatSlot (t : Fin 3) : Fin 21 := ⟨16 + t.val, by omega⟩

end Sys2Proof.Machine
end

