-- ==== Sys2Proof/Machine/Flags.lean ====
section
/-!
DEFINITION. The flag-like state of the CORE (rule R27): the MSB-transition primitive over `prev`, the one-shot flag
cells and the Y-overlap counter.
-/

namespace Sys2Proof.Machine

/-- The four results of the MSB-transition primitive, kept symbolic (rules R69(e), R100). -/
inductive EdgeCode where
  /-- was-set to now-clear, the only result with an effect -/
  | fell
  /-- was-clear to now-clear -/
  | low
  /-- was-set to now-set -/
  | high
  /-- was-clear to now-set -/
  | rose
deriving DecidableEq, Repr

/-- The result for a previous and a present bit (rule R100). -/
def edgeCode (was now : Bool) : EdgeCode :=
  match was, now with
  | true, false => .fell
  | false, false => .low
  | true, true => .high
  | false, true => .rose

/-- `Edge(s, now)`: the result, and `prev[s]` replaced by `now` (rule R100). -/
def edge (g : Signal) (now : Bool) : SlotM EdgeCode := do
  let was ← reg (fun s => s.prev[g.idx])
  update fun s => { s with prev := s.prev.set g.idx now }
  pure (edgeCode was now)

/-- A one-shot flag is raised by writing its set value; the CORE never writes 0 to it outside reset (rule R30). -/
def raiseOneShot (a : Nat) (setValue : Byte) : SlotM Unit := memWrite a setValue

/-- A distance counts as an overlap when it is below `OVERLAP_LIMIT`, strictly (rules R156, R158). -/
abbrev Overlaps (cfg : Cfg) (d : Byte) : Prop := d < cfg.overlapLimit

/-- The Y-overlap counter goes up by one on a vertical overlap, and is never cleared inside a sweep (rule R156). -/
def countYOverlap (d : Byte) : SlotM Unit :=
  update fun s => if Overlaps s.cfg d then { s with yOverlap := s.yOverlap + 1 } else s

/-- The collision condition of rule R158: this beastie's horizontal overlap with a nonzero Y-overlap count. -/
abbrev State.Collides (s : State) (dH : Byte) : Prop := Overlaps s.cfg dH ∧ s.yOverlap ≠ 0

/-- The liveness test of rules R151 and R159: the one bit of the cell under `LIVE_MASK`. -/
abbrev Alive (cfg : Cfg) (l : Byte) : Prop := l &&& cfg.liveMask ≠ 0

end Sys2Proof.Machine
end

