-- ==== Sys2Proof/Machine/Beastie.lean ====
section
/-!
DEFINITION. Slots 7 and 8 `BEAST0..1` (rules R150 to R163), the collision defect included: a kill needs the current
beastie's X-overlap and ANY Y-overlap of the sweep so far (rule R158), and it ends the sweep (rule R160).
-/

namespace Sys2Proof.Machine

/-- The vertical half of a live beastie (rules R155, R156): compare, write code and distance, count the overlap. -/
def verticalResult (p : Fin 2) (i : Fin 7) : SlotM Unit := do
  let cfg ← reg (·.cfg)
  let bv ← memRead cfg.aBY[i]
  let pv ← reg (·.pY)
  memWrite cfg.aOVCode[p][i] (compareCoord cfg pv bv).1
  memWrite cfg.aOVDist[p][i] (compareCoord cfg pv bv).2
  countYOverlap (compareCoord cfg pv bv).2

/-- The horizontal half (rule R157); the answer is the horizontal distance. -/
def horizontalResult (p : Fin 2) (i : Fin 7) : SlotM Byte := do
  let cfg ← reg (·.cfg)
  let bv ← memRead cfg.aBX[i]
  let pv ← reg (·.pX)
  memWrite cfg.aOHCode[p][i] (compareCoord cfg pv bv).1
  memWrite cfg.aOHDist[p][i] (compareCoord cfg pv bv).2
  pure (compareCoord cfg pv bv).2

/-- The kill request (rule R159): the liveness is read again, and if the bit is still set the flag and the loop index are
written; the answer says whether they were. -/
def killRequest (p : Fin 2) : SlotM Bool := do
  let cfg ← reg (·.cfg)
  let l ← memRead cfg.aPLive[p]
  if Alive cfg l then do
    raiseOneShot cfg.aKillReq[p] cfg.vKill
    let i ← reg (·.beastIdx)
    memWrite cfg.aKillIdx[p] (i.setWidth 8)
    pure true
  else pure false

/-- A live beastie (rules R154 to R160); the answer says whether the sweep ends here. -/
def liveBeastie (p : Fin 2) (i : Fin 7) : SlotM Bool := do
  verticalResult p i
  let dH ← horizontalResult p i
  let hit ← reg (fun s => decide (s.Collides dH))
  if hit = true then killRequest p else pure false

/-- One turn of the sweep (rule R153): a beastie whose stage byte has bit 0 clear is skipped untouched. -/
def visitBeastie (p : Fin 2) (i : Fin 7) : SlotM Bool := do
  let cfg ← reg (·.cfg)
  update fun s => { s with beastIdx := BitVec.ofNat 3 i.val }
  let stage ← memRead cfg.aBStage[i]
  if stage.getLsbD 0 = true then liveBeastie p i else pure false

/-- The sweep over the beasties still to come (rules R153, R160). -/
def sweep (p : Fin 2) : List (Fin 7) → SlotM Unit
  | [] => pure ()
  | i :: rest => do
    let done ← visitBeastie p i
    if done = true then pure () else sweep p rest

/-- What the relay does for a live player (rules R152, R153, R162): `x` then `y` cached, the overlap counter cleared once,
the seven records in order. -/
def livePlayer (p : Fin 2) : SlotM Unit := do
  let cfg ← reg (·.cfg)
  let x ← memRead cfg.aPX[p]
  update fun s => { s with pX := x }
  let y ← memRead cfg.aPY[p]
  update fun s => { s with pY := y }
  update fun s => { s with yOverlap := 0 }
  sweep p [0, 1, 2, 3, 4, 5, 6]

/-- `BEAST(p)` (rule R163), behind the guard of rule R151. -/
def beastieRelay (p : Fin 2) : SlotM Unit := do
  let cfg ← reg (·.cfg)
  let l ← memRead cfg.aPLive[p]
  if Alive cfg l then livePlayer p else pure ()

/-- `BEAST0`. -/
def execBeast0 (s : State) : Host.Outcome State Fault Refusal := runSlot 7 (beastieRelay 0) s

/-- `BEAST1`. -/
def execBeast1 (s : State) : Host.Outcome State Fault Refusal := runSlot 8 (beastieRelay 1) s

end Sys2Proof.Machine
end

