-- ==== Sys2Proof/Machine/Controllers.lean ====
section
/-!
DEFINITION. Slots 4 to 6 `CTRL0..2` (rules R120 to R131) with the commands `CTRL.IDLE`, `DIAG.GATE` and the fifteen
controller operations.
-/

namespace Sys2Proof.Machine

/-- `Complete(c, r)` (rule R127): output cell, register, command cell zeroed, in that order. -/
def complete (c : Fin 3) (r : Byte) : SlotM Unit := do
  let cfg ← reg (·.cfg)
  memWrite cfg.aCtrlOut[c] r
  update fun s => { s with ctrlCache := s.ctrlCache.set c r }
  memWrite cfg.aCtrlCmd[c] 0

/-- `DERIVE` (rule R122), of a credit-variant controller. -/
def deriveCommand (k : Fin 2) : SlotM Unit := do
  let cfg ← reg (·.cfg)
  let bank ← reg (·.bank)
  complete k.castSucc (deriveByte cfg k bank)

/-- `INC` (rule R123): increment, clamped at the controller's maximum. -/
def incCommand (c : Fin 3) : SlotM Unit := do
  let cfg ← reg (·.cfg)
  let v ← operand c
  complete c (incClamp v (incAmount cfg c) cfg.ctrlMax[c])

/-- `DEC` (rule R124): decrement without a clamp, so 0 gives 255. -/
def decCommand (c : Fin 3) : SlotM Unit := do
  let v ← operand c
  complete c (v - 1)

/-- `SETMAX` (rule R125). -/
def setMaxCommand (c : Fin 3) : SlotM Unit := do
  let cfg ← reg (·.cfg)
  complete c cfg.ctrlMax[c]

/-- `SET(k)` of the level controller (rule R126); `k` is one of the constants of rule R66. -/
def setCommand (k : LevelTargets → Byte) : SlotM Unit := do
  let cfg ← reg (·.cfg)
  complete 2 (k cfg.levelTargets)

/-- The consistency check (rule R128): poison the CORE when output cell and register differ. -/
def consistencyCheck (c : Fin 3) : SlotM Unit := do
  let cfg ← reg (·.cfg)
  let o ← memRead cfg.aCtrlOut[c]
  let x ← reg (fun s => s.ctrlCache[c])
  if o ≠ x then raise (.poisoned c) else pure ()

/-- `Diagnostic(c)` (rule R128): the check, when the gate cell holds its marker. -/
def diagnostic (c : Fin 3) : SlotM Unit := do
  let cfg ← reg (·.cfg)
  let g ← memRead cfg.aCtrlGate[c]
  if g = cfg.vDiag then consistencyCheck c else pure ()

/-- A credit-variant operation (rule R65). -/
def creditCommand (k : Fin 2) : CreditOp → SlotM Unit
  | .derive => deriveCommand k
  | .inc => incCommand k.castSucc
  | .dec => decCommand k.castSucc
  | .setMax => setMaxCommand k.castSucc

/-- A level-variant operation (rule R66). -/
def levelCommand : LevelOp → SlotM Unit
  | .set00 => setCommand (·.set00)
  | .inc => incCommand 2
  | .set31 => setCommand (·.set31)
  | .set62 => setCommand (·.set62)
  | .set63 => setCommand (·.set63)
  | .set64 => setCommand (·.set64)
  | .set65 => setCommand (·.set65)

/-- `CTRL(c)` of a credit variant (rules R121, R129): 0 runs the diagnostic, a mapped byte its operation, any other byte
is refused before anything is written. -/
def creditController (k : Fin 2) : SlotM Unit := do
  let cfg ← reg (·.cfg)
  let cmd ← memRead cfg.aCtrlCmd[k.castSucc]
  if cmd = 0 then diagnostic k.castSucc
  else match cfg.creditMap[k].op cmd with
    | some op => creditCommand k op
    | none => raise (.refused (.unmappedCommand k.castSucc cmd))

/-- `CTRL(2)`, the level variant (rules R121, R129, R130). -/
def levelController : SlotM Unit := do
  let cfg ← reg (·.cfg)
  let cmd ← memRead cfg.aCtrlCmd[2]
  if cmd = 0 then diagnostic 2
  else match cfg.levelMap.op cmd with
    | some op => levelCommand op
    | none => raise (.refused (.unmappedCommand 2 cmd))

/-- `CTRL0`. -/
def execCtrl0 (s : State) : Host.Outcome State Fault Refusal := runSlot 4 (creditController 0) s

/-- `CTRL1`. -/
def execCtrl1 (s : State) : Host.Outcome State Fault Refusal := runSlot 5 (creditController 1) s

/-- `CTRL2`. -/
def execCtrl2 (s : State) : Host.Outcome State Fault Refusal := runSlot 6 levelController s

/-- `CTRL.IDLE`: what slot `4+c` does after reading the command 0. -/
def execCtrlIdle (c : Fin 3) (s : State) : Host.Outcome State Fault Refusal := runSlot (ctrlSlot c) (diagnostic c) s

/-- `DIAG.GATE`: what slot `4+c` does after reading the command 0 and the gate marker. -/
def execDiagGate (c : Fin 3) (s : State) : Host.Outcome State Fault Refusal :=
  runSlot (ctrlSlot c) (consistencyCheck c) s

/-- `CTRL0.DERIVE`. -/
def execCtrl0Derive (s : State) : Host.Outcome State Fault Refusal := runSlot 4 (deriveCommand 0) s

/-- `CTRL0.INC`. -/
def execCtrl0Inc (s : State) : Host.Outcome State Fault Refusal := runSlot 4 (incCommand 0) s

/-- `CTRL0.DEC`. -/
def execCtrl0Dec (s : State) : Host.Outcome State Fault Refusal := runSlot 4 (decCommand 0) s

/-- `CTRL0.SETMAX`. -/
def execCtrl0SetMax (s : State) : Host.Outcome State Fault Refusal := runSlot 4 (setMaxCommand 0) s

/-- `CTRL1.DERIVE`. -/
def execCtrl1Derive (s : State) : Host.Outcome State Fault Refusal := runSlot 5 (deriveCommand 1) s

/-- `CTRL1.INC`. -/
def execCtrl1Inc (s : State) : Host.Outcome State Fault Refusal := runSlot 5 (incCommand 1) s

/-- `CTRL1.DEC`. -/
def execCtrl1Dec (s : State) : Host.Outcome State Fault Refusal := runSlot 5 (decCommand 1) s

/-- `CTRL1.SETMAX`. -/
def execCtrl1SetMax (s : State) : Host.Outcome State Fault Refusal := runSlot 5 (setMaxCommand 1) s

/-- `CTRL2.SET00`. -/
def execCtrl2Set00 (s : State) : Host.Outcome State Fault Refusal := runSlot 6 (setCommand (·.set00)) s

/-- `CTRL2.INC`. -/
def execCtrl2Inc (s : State) : Host.Outcome State Fault Refusal := runSlot 6 (incCommand 2) s

/-- `CTRL2.SET31`. -/
def execCtrl2Set31 (s : State) : Host.Outcome State Fault Refusal := runSlot 6 (setCommand (·.set31)) s

/-- `CTRL2.SET62`. -/
def execCtrl2Set62 (s : State) : Host.Outcome State Fault Refusal := runSlot 6 (setCommand (·.set62)) s

/-- `CTRL2.SET63`. -/
def execCtrl2Set63 (s : State) : Host.Outcome State Fault Refusal := runSlot 6 (setCommand (·.set63)) s

/-- `CTRL2.SET64`. -/
def execCtrl2Set64 (s : State) : Host.Outcome State Fault Refusal := runSlot 6 (setCommand (·.set64)) s

/-- `CTRL2.SET65`. -/
def execCtrl2Set65 (s : State) : Host.Outcome State Fault Refusal := runSlot 6 (setCommand (·.set65)) s

end Sys2Proof.Machine
end

