-- ==== Sys2Proof/Machine/Credit.lean ====
section
/-!
DEFINITION. Slot 2 `CREDIT` (rules R102 to R108), slot 3 `LOCK` and the commands `LOCK.ENGAGE`, `LOCK.DISENGAGE` (rules
R109 to R111).
-/

namespace Sys2Proof.Machine

/-- `Award(a)` (rule R106): the phony counter goes up by `a`, wrapping, and the one-shot flag is raised. -/
def award (a : Byte) : SlotM Unit := do
  let cfg ← reg (·.cfg)
  let n ← memRead cfg.aPhony
  memWrite cfg.aPhony (n + a)
  raiseOneShot cfg.aChanged cfg.vChanged

/-- `Accumulate(l, need, award)` (rule R104): count, then test for equality. -/
def accumulate (l : Fin 2) (p : Price) : SlotM Unit := do
  update fun s => { s with partialCoins := s.partialCoins.set l (s.partialCoins[l] + 1) }
  let n ← reg (fun s => s.partialCoins[l])
  if n = p.need then do
    update fun s => { s with partialCoins := s.partialCoins.set l 0 }
    award p.award
  else pure ()

/-- What a falling edge on coin line `l` does (rules R103 to R105). -/
def coinFell (l : Fin 2) : SlotM Unit := do
  let p ← reg (fun s => s.priceOf l)
  if p.need > 1 then accumulate l p else award p.award

/-- `CoinLine(l)` (rule R103). -/
def coinLine (l : Fin 2) : SlotM Unit := do
  let now ← reg (fun s => s.sig (coinSignal l))
  let e ← edge (coinSignal l) now
  if e = .fell then coinFell l else pure ()

/-- What a falling edge on the service line does (rule R107): one credit below the ceiling, the lockout at it. -/
def serviceFell : SlotM Unit := do
  let cfg ← reg (·.cfg)
  let n ← memRead cfg.aPhony
  if n ≥ cfg.creditCeiling then engage else award 1

/-- `ServiceLine()` (rule R107). -/
def serviceLine : SlotM Unit := do
  let now ← reg (fun s => s.sig .service)
  let e ← edge .service now
  if e = .fell then serviceFell else pure ()

/-- `Threshold()` (rule R108), on every tick, on the value the three lines left. -/
def threshold : SlotM Unit := do
  let cfg ← reg (·.cfg)
  let n ← memRead cfg.aPhony
  if n ≥ cfg.creditCeiling then engage else disengage

/-- Slot 2 (rule R102): coin A, coin B, service, threshold. -/
def creditOp : SlotM Unit := do
  coinLine 0
  coinLine 1
  serviceLine
  threshold

/-- Slot 3 (rule R110): the HOST's command, which overrides the threshold's decision for its two values only; the command
cell is not written, and both drives of a thrash are made (rule R111). -/
def lockOp : SlotM Unit := do
  let cfg ← reg (·.cfg)
  let c ← memRead cfg.aLockCmd
  if c = cfg.vLockEngage then engage
  else if c = cfg.vLockDisengage then disengage
  else pure ()

/-- `CREDIT`. -/
def execCredit (s : State) : Host.Outcome State Fault Refusal := runSlot 2 creditOp s

/-- `LOCK`. -/
def execLock (s : State) : Host.Outcome State Fault Refusal := runSlot 3 lockOp s

/-- `LOCK.ENGAGE`: what slot 3 does after reading the engage command. -/
def execLockEngage (s : State) : Host.Outcome State Fault Refusal := runSlot 3 engage s

/-- `LOCK.DISENGAGE`: what slot 3 does after reading the disengage command. -/
def execLockDisengage (s : State) : Host.Outcome State Fault Refusal := runSlot 3 disengage s

end Sys2Proof.Machine
end

