-- ==== Sys2Proof/Machine/Creeper.lean ====
section
/-!
DEFINITION. Slots 9 to 12 `CREEP0..3` (rules R140 to R147).
-/

namespace Sys2Proof.Machine

/-- Emit entry `i` of table `n` and move the cursor behind it (rules R142, R143). -/
def emitCreeper (k : Fin 4) (n : Byte) (i : Byte) : SlotM Unit := do
  let cfg ← reg (·.cfg)
  memWrite cfg.aCreepOut[k] (creeperByte cfg n i.toNat)
  update fun s => { s with creepIdx := s.creepIdx.set k (i + 1) }

/-- The cycle boundary (rules R144, R145): sample the selector, latch it, and emit entry 0 of the new table in the same
tick; a selector above 40 is latched and refused. -/
def creeperBoundary (k : Fin 4) : SlotM Unit := do
  let cfg ← reg (·.cfg)
  let n ← memRead cfg.aCreepSel[k]
  update fun s => { s with creepTable := s.creepTable.set k n }
  if n > 40 then raise (.refused (.creeperSelector k n)) else emitCreeper k n 0

/-- A latched selector above 40 (rule R145) is refused. This path of the slot makes no access, so the point where a cold reset
can come in (rule R231) is written out. -/
def refuseLatched (k : Fin 4) (n : Byte) : SlotM Unit := do
  coldResetPoint
  raise (.refused (.creeperSelector k n))

/-- `CREEP(k)` (rule R142): the latched table is used, and the selector cell is sampled only on the sentinel. -/
def creeper (k : Fin 4) : SlotM Unit := do
  let cfg ← reg (·.cfg)
  let n ← reg (fun s => s.creepTable[k])
  let i ← reg (fun s => s.creepIdx[k])
  if n > 40 then refuseLatched k n
  else if i.toNat = (creeperTable cfg n).length then creeperBoundary k
  else emitCreeper k n i

/-- `CREEP0`. -/
def execCreep0 (s : State) : Host.Outcome State Fault Refusal := runSlot 9 (creeper 0) s

/-- `CREEP1`. -/
def execCreep1 (s : State) : Host.Outcome State Fault Refusal := runSlot 10 (creeper 1) s

/-- `CREEP2`. -/
def execCreep2 (s : State) : Host.Outcome State Fault Refusal := runSlot 11 (creeper 2) s

/-- `CREEP3`. -/
def execCreep3 (s : State) : Host.Outcome State Fault Refusal := runSlot 12 (creeper 3) s

end Sys2Proof.Machine
end

