-- ==== Sys2Proof/Machine/HostScript.lean ====
section
/-!
DEFINITION. The host-script lines `HW`, `HR`, `IN`, `CAB`, `TICK`, `RESET` (rule R73): the steps of the HOST, of the
InputDevice, of the tick trigger (rule R207) and of the power switch (rule R231).
-/

namespace Sys2Proof.Machine

/-- `HW a, v`: the HOST writes one byte of `Shared` (rules R6, R43, R73). Rule R73 gives the line an address in `Shared`
only; any other is outside what the HOST can write. -/
def execHw (a : Half) (v : Byte) (s : State) : Host.Outcome State Fault Refusal :=
  match s.busWrite a.toNat v with
  | some s' => .next s'
  | none => .fault (.hostAddressOutOfRange a.toNat)

/-- `HR a -> v`: the HOST reads one byte (rules R6, R43, R73). The read is recorded with what the script asserts of it; a
failed assertion is a fact about the script and changes nothing (log entry 7). -/
def execHr (a : Half) (v : Byte) (s : State) : Host.Outcome State Fault Refusal :=
  match s.busRead a.toNat with
  | some (x, s') => .next { s' with hostReads := s'.hostReads ++ [⟨a, x, v⟩] }
  | none => .fault (.hostAddressOutOfRange a.toNat)

/-- `IN b, v`: from now on `Inputs[b]` reads as `v` (rule R73). -/
def execInp (b : Fin 4) (v : Byte) (s : State) : Host.Outcome State Fault Refusal :=
  .next { s with heldBank := s.heldBank.set b (some v) }

/-- `CAB v`: from now on `CAB_IN` reads as `v` (rule R73). -/
def execCab (v : Byte) (s : State) : Host.Outcome State Fault Refusal := .next { s with heldCab := some v }

/-- The tick trigger (rules R23, R207): it starts a tick when the CORE runs and is idle, changing `pc` only (rule R211);
while the status is terminal it is ignored. It is not queued, and inside a tick it does not happen. -/
def State.trigger (s : State) : State :=
  if s.status = .running ∧ s.pc = .idle then { s with pc := .slot 0 } else s

/-- `TICK`: one trigger; the slots run in the steps that follow. -/
def execTick (s : State) : Host.Outcome State Fault Refusal := .next s.trigger

/-- `RESET`: a cold reset (rules R230, R231), possible in every state, and the only way out of a terminal status. -/
def execReset (s : State) : Host.Outcome State Fault Refusal := .next s.restart

/-- Power-on with configuration `cfg` (rules R7, R231, R232): a machine in its reset state, or, for an invalid configuration,
to which the spec gives no meaning, a refusal at configuration time (U5). `shared` is what `Shared` holds when a reset
does not zero it. -/
def powerOn (cfg : Cfg) (shared : Memory) : Host.Outcome State Fault Refusal :=
  if cfg.valid then .next (State.fresh cfg shared) else .refused .invalidConfiguration

end Sys2Proof.Machine
end

