-- ==== Sys2Proof/Machine/InputRelay.lean ====
section
/-!
DEFINITION. Slot 1 `INREL` (rules R84, R85).
-/

namespace Sys2Proof.Machine

/-- One bank of the relay: read, cached, mirrored before the next is read (rule R85). -/
def relayBank (b : Fin 4) : SlotM Unit := do
  let cfg ← reg (·.cfg)
  let w ← memRead b.val
  update fun s => { s with bank := s.bank.set b w }
  memWrite cfg.aBankMirror[b] w

/-- Slot 1 (rule R84): the cabinet byte, then the banks 0 to 3, each copied unchanged into its register and its mirror. -/
def inputRelayOp : SlotM Unit := do
  let cfg ← reg (·.cfg)
  let v ← readCab
  update fun s => { s with cabLatch := v }
  memWrite cfg.aCabMirror v
  relayBank 0
  relayBank 1
  relayBank 2
  relayBank 3

/-- `INREL`. -/
def execInrel (s : State) : Host.Outcome State Fault Refusal := runSlot 1 inputRelayOp s

end Sys2Proof.Machine
end

