-- ==== Sys2Proof/Machine/InterruptGate.lean ====
section
/-!
DEFINITION. Slot 0 `IRQ` and the command `IRQ.READY` (rules R82, R83).
-/

namespace Sys2Proof.Machine

/-- The pulse low, high, low (rule R83): three drives, the first made even when the line is already low. -/
def pulse : SlotM Unit := do
  portWrite .irqOut false
  portWrite .irqOut true
  portWrite .irqOut false

/-- Slot 0 (rule R82): the pulse when the marker cell holds the ready marker, else nothing; the cell is not written. -/
def irqOp : SlotM Unit := do
  let cfg ← reg (·.cfg)
  let m ← memRead cfg.aIrqMarker
  if m = cfg.vIrqReady then pulse else pure ()

/-- `IRQ`. -/
def execIrq (s : State) : Host.Outcome State Fault Refusal := runSlot 0 irqOp s

/-- `IRQ.READY`: what slot 0 does after reading the ready marker. -/
def execIrqReady (s : State) : Host.Outcome State Fault Refusal := runSlot 0 pulse s

end Sys2Proof.Machine
end

