-- ==== Sys2Proof/Machine/ResetWatcher.lean ====
section
/-!
DEFINITION. Slot 19 `RSTW` and the command `RST.WARM` (rules R195 to R197), slot 20 `DELAY` and the command
`DELAY.MARK` (rule R87).
-/

namespace Sys2Proof.Machine

/-- Slot 19 (rules R195, R196): on the trigger value the warm restart, which ends the tick. -/
def resetWatcherOp : SlotM Unit := do
  let cfg ← reg (·.cfg)
  let c ← memRead cfg.aResetCmd
  if c = cfg.vReset then restartNow else pure ()

/-- The constant-time pad (rule R87): no state change of any kind. -/
def pad : SlotM Unit := pure ()

/-- Slot 20 (rule R87): the marker is read, and where it is absent the pad runs. -/
def delayOp : SlotM Unit := do
  let cfg ← reg (·.cfg)
  let m ← memRead cfg.aDelayMarker
  if m ≠ cfg.vDelayMarker then pad else pure ()

/-- `RSTW`. -/
def execRstw (s : State) : Host.Outcome State Fault Refusal := runSlot 19 resetWatcherOp s

/-- `RST.WARM`: what slot 19 does after reading the warm-reset trigger. -/
def execRstWarm (s : State) : Host.Outcome State Fault Refusal := runSlot 19 restartNow s

/-- `DELAY`. -/
def execDelay (s : State) : Host.Outcome State Fault Refusal := runSlot 20 delayOp s

/-- `DELAY.MARK`: what slot 20 does after reading the delay marker: it skips the pad. -/
def execDelayMark (s : State) : Host.Outcome State Fault Refusal := runSlot 20 (pure ()) s

end Sys2Proof.Machine
end

