-- ==== Sys2Proof/Machine/Timers.lean ====
section
/-!
DEFINITION. Slot 13 `CLOCK` (rules R170 to R174), slot 14 `MISCHIEF` with the command `MISCHIEF.EN` (rules R175, R176) and
slot 15 `EXTEND` (rules R177, R178).
-/

namespace Sys2Proof.Machine

/-- An active clock (rules R171 to R173): decrement the 16-bit count; at 0 clear the active cell and raise the done flag,
leaving the count cells alone; otherwise store the count, high byte first. -/
def clockCount : SlotM Unit := do
  let cfg ← reg (·.cfg)
  let hi ← memRead cfg.aClkHi
  let lo ← memRead cfg.aClkLo
  let n : Half := halfOf hi lo - 1
  if n = 0 then do
    memWrite cfg.aClkActive 0
    raiseOneShot cfg.aClkDone cfg.vDone
  else do
    memWrite cfg.aClkHi (highByte n)
    memWrite cfg.aClkLo (lowByte n)

/-- Slot 13 (rule R170): any nonzero active byte counts as active (rule R171). -/
def clockOp : SlotM Unit := do
  let cfg ← reg (·.cfg)
  let a ← memRead cfg.aClkActive
  if a = 0 then pure () else clockCount

/-- The second condition of the mischief and its effect (rules R175, R176): the level controller's register against the
level value, then the phony counter overwritten; no flag is raised. -/
def mischiefArmed : SlotM Unit := do
  let cfg ← reg (·.cfg)
  let level ← reg (fun s => s.ctrlCache[2])
  if level = cfg.vMischiefLevel then memWrite cfg.aPhony cfg.vMischiefCredits else pure ()

/-- Slot 14 (rule R175). -/
def mischiefOp : SlotM Unit := do
  let cfg ← reg (·.cfg)
  let e ← memRead cfg.aMischiefEn
  if e = cfg.vMischiefEn then mischiefArmed else pure ()

/-- The extend rotator's successor (rules R177, R178). Both rules are written with the literal 6; for another
`EXTEND_MODULUS` (rule R5) the values below it go round modulo it and all others are out of range, DESIGN CHOICE, log
entry 18. -/
def extendNext (cfg : Cfg) (v : Byte) : Byte :=
  if v < cfg.extendModulus then incMod v cfg.extendModulus else extendOorByte cfg v

/-- Slot 15 (rule R177), on every tick. -/
def extendOp : SlotM Unit := do
  let cfg ← reg (·.cfg)
  let v ← memRead cfg.aExtend
  memWrite cfg.aExtend (extendNext cfg v)

/-- `CLOCK`. -/
def execClock (s : State) : Host.Outcome State Fault Refusal := runSlot 13 clockOp s

/-- `MISCHIEF`. -/
def execMischief (s : State) : Host.Outcome State Fault Refusal := runSlot 14 mischiefOp s

/-- `MISCHIEF.EN`: what slot 14 does after reading the enable value. -/
def execMischiefEn (s : State) : Host.Outcome State Fault Refusal := runSlot 14 mischiefArmed s

/-- `EXTEND`. -/
def execExtend (s : State) : Host.Outcome State Fault Refusal := runSlot 15 extendOp s

end Sys2Proof.Machine
end

