-- ==== Sys2Proof/Machine/Translator.lean ====
section
/-!
DEFINITION. Slots 16 to 18 `XLAT0..2` with the commands `XLAT.ARM` and `XLAT.DONE` (rules R185 to R191).
-/

namespace Sys2Proof.Machine

/-- The lookup and the two writes of a firing, for a table selector in range (rules R187 to R190): the destination is
the sum of base and offset, without a wrap; the status is written last. -/
def copyByte (t : Fin 3) (n : Byte) : SlotM Unit := do
  let cfg ← reg (·.cfg)
  let j ← memRead cfg.aXlIndex[t]
  let o ← memRead cfg.aXlOffset[t]
  memWrite (cfg.xlBase[t] + o.toNat) (translatorByte cfg n j)
  memWrite cfg.aXlStatus[t] cfg.vXlDone

/-- A firing (rules R186, R191): a table selector above 4 is refused before any write. -/
def fire (t : Fin 3) : SlotM Unit := do
  let cfg ← reg (·.cfg)
  let n ← memRead cfg.aXlTable[t]
  if n > 4 then raise (.refused (.translatorTable t n)) else copyByte t n

/-- `XLAT(t)` (rule R186): every status but "armed" is a no-op, "done" included (rule R191). -/
def translator (t : Fin 3) : SlotM Unit := do
  let cfg ← reg (·.cfg)
  let s ← memRead cfg.aXlStatus[t]
  if s = cfg.vXlArmed then fire t else pure ()

/-- `XLAT0`. -/
def execXlat0 (s : State) : Host.Outcome State Fault Refusal := runSlot 16 (translator 0) s

/-- `XLAT1`. -/
def execXlat1 (s : State) : Host.Outcome State Fault Refusal := runSlot 17 (translator 1) s

/-- `XLAT2`. -/
def execXlat2 (s : State) : Host.Outcome State Fault Refusal := runSlot 18 (translator 2) s

/-- `XLAT.ARM`: what slot `16+t` does after reading the armed status. -/
def execXlatArm (t : Fin 3) (s : State) : Host.Outcome State Fault Refusal := runSlot (xlatSlot t) (fire t) s

/-- `XLAT.DONE`: what slot `16+t` does after reading the done status: nothing (rules R190, R191(c)). -/
def execXlatDone (t : Fin 3) (s : State) : Host.Outcome State Fault Refusal := runSlot (xlatSlot t) (pure ()) s

end Sys2Proof.Machine
end

