-- ==== Sys2Proof/Machine/Dispatch.lean ====
section
/-!
DEFINITION. The dispatch: one arm per instruction, in the order of the opcode table.
-/

namespace Sys2Proof.Machine

/-- The effect of one instruction. -/
def exec (i : Instr) (s : State) : Host.Outcome State Fault Refusal :=
  match i with
  | .irq => Sys2Proof.Machine.execIrq s
  | .inrel => Sys2Proof.Machine.execInrel s
  | .credit => Sys2Proof.Machine.execCredit s
  | .lock => Sys2Proof.Machine.execLock s
  | .ctrl0 => Sys2Proof.Machine.execCtrl0 s
  | .ctrl1 => Sys2Proof.Machine.execCtrl1 s
  | .ctrl2 => Sys2Proof.Machine.execCtrl2 s
  | .beast0 => Sys2Proof.Machine.execBeast0 s
  | .beast1 => Sys2Proof.Machine.execBeast1 s
  | .creep0 => Sys2Proof.Machine.execCreep0 s
  | .creep1 => Sys2Proof.Machine.execCreep1 s
  | .creep2 => Sys2Proof.Machine.execCreep2 s
  | .creep3 => Sys2Proof.Machine.execCreep3 s
  | .clock => Sys2Proof.Machine.execClock s
  | .mischief => Sys2Proof.Machine.execMischief s
  | .extend => Sys2Proof.Machine.execExtend s
  | .xlat0 => Sys2Proof.Machine.execXlat0 s
  | .xlat1 => Sys2Proof.Machine.execXlat1 s
  | .xlat2 => Sys2Proof.Machine.execXlat2 s
  | .rstw => Sys2Proof.Machine.execRstw s
  | .delay => Sys2Proof.Machine.execDelay s
  | .irqReady => Sys2Proof.Machine.execIrqReady s
  | .lockEngage => Sys2Proof.Machine.execLockEngage s
  | .lockDisengage => Sys2Proof.Machine.execLockDisengage s
  | .ctrlIdle c => Sys2Proof.Machine.execCtrlIdle c s
  | .diagGate c => Sys2Proof.Machine.execDiagGate c s
  | .mischiefEn => Sys2Proof.Machine.execMischiefEn s
  | .xlatArm t => Sys2Proof.Machine.execXlatArm t s
  | .xlatDone t => Sys2Proof.Machine.execXlatDone t s
  | .rstWarm => Sys2Proof.Machine.execRstWarm s
  | .delayMark => Sys2Proof.Machine.execDelayMark s
  | .ctrl0Derive => Sys2Proof.Machine.execCtrl0Derive s
  | .ctrl0Inc => Sys2Proof.Machine.execCtrl0Inc s
  | .ctrl0Dec => Sys2Proof.Machine.execCtrl0Dec s
  | .ctrl0SetMax => Sys2Proof.Machine.execCtrl0SetMax s
  | .ctrl1Derive => Sys2Proof.Machine.execCtrl1Derive s
  | .ctrl1Inc => Sys2Proof.Machine.execCtrl1Inc s
  | .ctrl1Dec => Sys2Proof.Machine.execCtrl1Dec s
  | .ctrl1SetMax => Sys2Proof.Machine.execCtrl1SetMax s
  | .ctrl2Set00 => Sys2Proof.Machine.execCtrl2Set00 s
  | .ctrl2Inc => Sys2Proof.Machine.execCtrl2Inc s
  | .ctrl2Set31 => Sys2Proof.Machine.execCtrl2Set31 s
  | .ctrl2Set62 => Sys2Proof.Machine.execCtrl2Set62 s
  | .ctrl2Set63 => Sys2Proof.Machine.execCtrl2Set63 s
  | .ctrl2Set64 => Sys2Proof.Machine.execCtrl2Set64 s
  | .ctrl2Set65 => Sys2Proof.Machine.execCtrl2Set65 s
  | .hw a v => Sys2Proof.Machine.execHw a v s
  | .hr a v => Sys2Proof.Machine.execHr a v s
  | .inp b v => Sys2Proof.Machine.execInp b v s
  | .cab v => Sys2Proof.Machine.execCab v s
  | .tick => Sys2Proof.Machine.execTick s
  | .reset => Sys2Proof.Machine.execReset s

end Sys2Proof.Machine
end

