-- ==== Sys2Proof/Machine/Fetch.lean ====
section
/-!
DEFINITION. Where the next instruction comes from. Inside a tick it is the slot that `pc` names (rules R23, R60). Between
ticks, and for ever in a terminal status (rule R204), it is the next line of the host script (rule R73); when the
script is used up, the tick trigger comes by itself (rule R207).
-/

namespace Sys2Proof.Machine

/-- What a step is about to do. -/
inductive Fetched where
  /-- run `i`, at the state `s'` in which the instruction's own encoding is behind the fetch point -/
  | run (i : Instr) (s' : State)
  /-- the bytes at the fetch point are no instruction -/
  | bad (e : DecodeError)
deriving DecidableEq, Repr

/-- The 5-bit encoding of a slot (rule R60). -/
def slotWord (n : Fin 21) : BitVec 5 := BitVec.ofNat 5 n.val

/-- The next line of the host script, or the free-running trigger after its end (rules R73, R207). -/
def State.fetchScript (s : State) : Fetched :=
  match s.script with
  | [] => .run .tick s
  | b :: rest =>
    match decodeScript (b :: rest) with
    | .ok (i, rest') => .run i { s with script := rest' }
    | .error e => .bad e

/-- The slot at `pc`. -/
def State.fetchSlot (s : State) (n : Fin 21) : Fetched :=
  match decodeSlot (slotWord n) with
  | .ok i => .run i s
  | .error e => .bad e

/-- The fetch: a slot while a tick runs, else the script. -/
def State.fetch (s : State) : Fetched :=
  match s.status, s.pc with
  | .running, .slot n => s.fetchSlot n
  | .running, .idle => s.fetchScript
  | .poisoned _, _ => s.fetchScript
  | .faulted _, _ => s.fetchScript
  | .refused _, _ => s.fetchScript

/-- The state in which a command cell is about to be read by its slot: the CORE runs, `pc` is at the slot, and the cell
holds the byte. The diagnostic gate is read only when the controller's command is 0 (rule R128). -/
def State.withCommand (s : State) (cell : CmdCell) (v : Byte) : State :=
  let s := { s with status := .running, pc := .slot (cellSlot cell) }
  match cell with
  | .ctrlGate c => { s with shared := (s.shared.put (s.cfg.aCtrlCmd[c]) 0).put (cellAddr s.cfg cell) v }
  | .irqMarker | .lockCmd | .ctrlCmd _ | .mischiefEn | .xlStatus _ | .resetCmd | .delayMarker =>
    { s with shared := s.shared.put (cellAddr s.cfg cell) v }

/-- `s` with an encoded instruction where the next step finds it. -/
def State.withEncoding (s : State) (e : Encoding) : State :=
  match e with
  | .slot w => if h : w.toNat < 21 then { s with status := .running, pc := .slot ⟨w.toNat, h⟩ } else s
  | .cmd cell v => s.withCommand cell v
  | .script bytes => { s with pc := if s.status = .running then .idle else s.pc, script := bytes }

/-- `s` with the instruction of a table word where the next step finds it; a word that is no instruction is put into the
host script, where it does not decode. -/
def State.withTableWord (s : State) (nbits w : Nat) : State :=
  match decodeTable nbits w with
  | some i => s.withEncoding (encode s.cfg i)
  | none => s.withEncoding (.script (tableBytes w))

end Sys2Proof.Machine
end

