-- ==== Sys2Proof/Machine/Step.lean ====
section
/-!
DEFINITION. One step of the machine: fetch, then `exec`. One step is one slot of a tick, or one event between ticks.
-/

namespace Sys2Proof.Machine

/-- One step. -/
def step (s : State) : Host.Outcome State Fault Refusal :=
  match s.fetch with
  | .run i s' => exec i s'
  | .bad e => .refused (.undecodable e)

/-- `s` with the instruction of an opcode-table word stored where `step` fetches its next instruction: a slot number goes
into `pc`, a host-script line into the script, a command byte into its cell with `pc` at the slot that reads it. -/
def State.withFetchWord (s : State) (nbits w : Nat) : State := s.withTableWord nbits w

end Sys2Proof.Machine
end

