-- ==== Sys2Proof/Safety.lean ====
section
/-!
DEFINITION. What counts as a safe state and a safe run, in the terms the statements use.
-/

namespace Sys2Proof.Machine

/-- A terminal status goes with the slot that raises it (rules R201 to R206), and `pc` stays there (rule R204); an
address fault can come from any slot. -/
def State.StopAtItsSlot (s : State) : Prop :=
  match s.status with
  | .running => True
  | .poisoned c => s.pc = .slot (ctrlSlot c)
  | .faulted _ => s.pc ≠ .idle
  | .refused (.unmappedCommand c cmd) => s.pc = .slot (ctrlSlot c) ∧ cmd ≠ 0
  | .refused (.creeperSelector k n) => s.pc = .slot (creepSlot k) ∧ n > 40 ∧ s.creepTable[k] = n
  | .refused (.translatorTable t n) => s.pc = .slot (xlatSlot t) ∧ n > 4

/-- Creeper `k`'s cursor stands inside its latched table or on its sentinel (rules R142, R143). -/
def State.CreeperInTable (s : State) (k : Fin 4) : Prop :=
  s.creepTable[k] ≤ 40 → s.creepIdx[k].toNat ≤ (creeperTable s.cfg s.creepTable[k]).length

/-- The status is one that a valid configuration can produce (rules R42, R202): no address fault. -/
def State.NoAddressFault (s : State) : Prop := ∀ a, s.status ≠ .faulted a

/-- The invariant of the machine, for every valid configuration: `Shared` is in its canonical form, every creeper's
cursor is inside its table, the overlap counter is a count of beasties, a terminal status stands at its slot, and no
address fault has happened. -/
structure State.Inv (s : State) : Prop where
  cfgValid  : s.cfg.Valid
  memory    : s.shared.wf = true
  creepers  : ∀ k : Fin 4, s.CreeperInTable k
  overlap   : s.yOverlap ≤ 7
  stop      : s.StopAtItsSlot
  addresses : s.NoAddressFault

/-- `k` steps, stopping at the first fault or refusal. -/
def stepN : Nat → State → Host.Outcome State Fault Refusal
  | 0, s => .next s
  | k + 1, s =>
    match step s with
    | .next s' => stepN k s'
    | .fault r => .fault r
    | .refused r => .refused r

/-- A run of `k` steps is safe from `s` when it ends in a state whose status is still `running`. -/
def State.SafeFor (s : State) (k : Nat) : Prop :=
  ∃ t, stepN k s = .next t ∧ t.status = .running

end Sys2Proof.Machine
end

