-- ==== Sys2Proof/Claims.lean ====
section
/-!
DEFINITION. The words the statements are written in: the spec's descriptions of a result, as plain functions of the
state before an instruction, none of them defined by the machine's own meanings.
-/

namespace Sys2Proof

/-- The command byte of a credit-variant operation (rule R65). -/
def CreditMap.byteOf (m : CreditMap) : CreditOp → Byte
  | .derive => m.deriveCmd
  | .inc => m.incCmd
  | .dec => m.decCmd
  | .setMax => m.setMaxCmd

/-- The command byte of a level-variant operation (rule R66). -/
def LevelMap.byteOf (m : LevelMap) : LevelOp → Byte
  | .set00 => m.set00Cmd
  | .inc => m.incCmd
  | .set31 => m.set31Cmd
  | .set62 => m.set62Cmd
  | .set63 => m.set63Cmd
  | .set64 => m.set64Cmd
  | .set65 => m.set65Cmd

/-- The cells the CORE never writes (rule R88). -/
def Cfg.hostOnlyCells (c : Cfg) : List Nat :=
  [c.aIrqMarker, c.aDelayMarker, c.aResetCmd, c.aLockCmd, c.aMischiefEn]
    ++ c.aCtrlGate.toList ++ c.aCreepSel.toList ++ c.aXlTable.toList ++ c.aXlIndex.toList ++ c.aXlOffset.toList
    ++ c.aPLive.toList ++ c.aPY.toList ++ c.aPX.toList ++ c.aBStage.toList ++ c.aBY.toList ++ c.aBX.toList

/-- The command bytes that controller `c`'s map assigns (rules R65, R66). -/
def Cfg.mapBytes (cfg : Cfg) (c : Fin 3) : List Byte :=
  if h : c.val < 2 then cfg.creditMap[c.val].bytes else cfg.levelMap.bytes

/-- The operations that start from a value (rules R123, R124). -/
def CreditOp.readsOperand : CreditOp → Bool
  | .inc | .dec => true
  | .derive | .setMax => false

def LevelOp.readsOperand : LevelOp → Bool
  | .inc => true
  | .set00 | .set31 | .set62 | .set63 | .set64 | .set65 => false

/-- How many accesses a command makes before the one that zeroes its cell: the read of the command, the read of the operand
where that is a cell, the write of the result (rules R121, R123, R127). -/
def Cfg.accessesBeforeZeroing (cfg : Cfg) (readsOperand : Bool) : Nat :=
  if readsOperand = true ∧ cfg.ctrlOperand = .output then 3 else 2

/-- The output cells of player `p`'s beastie `i`, in the order the relay writes them (rules R156, R157). -/
def Cfg.beastOutOf (cfg : Cfg) (p : Fin 2) (i : Fin 7) : List Nat :=
  [cfg.aOVCode[p][i], cfg.aOVDist[p][i], cfg.aOHCode[p][i], cfg.aOHDist[p][i]]

/-- The cells of player `p`'s sweep: those of the seven beasties, then the kill cells (rules R153, R159, R160: a kill ends
the sweep). -/
def Cfg.sweepCells (cfg : Cfg) (p : Fin 2) : List Nat :=
  ([0, 1, 2, 3, 4, 5, 6] : List (Fin 7)).flatMap (cfg.beastOutOf p) ++ [cfg.aKillReq[p], cfg.aKillIdx[p]]

end Sys2Proof

namespace Sys2Proof.Machine

/-! ### The rows of rule R60 that are replicated: the replica, its instruction, its slot -/

def controllerSlots : List (Fin 3 × Instr × Fin 21) := [(0, .ctrl0, 4), (1, .ctrl1, 5), (2, .ctrl2, 6)]
def beastieSlots : List (Fin 2 × Instr × Fin 21) := [(0, .beast0, 7), (1, .beast1, 8)]
def creeperSlots : List (Fin 4 × Instr × Fin 21) := [(0, .creep0, 9), (1, .creep1, 10), (2, .creep2, 11), (3, .creep3, 12)]
def translatorSlots : List (Fin 3 × Instr × Fin 21) := [(0, .xlat0, 16), (1, .xlat1, 17), (2, .xlat2, 18)]

/-! ### The reset state (rule R230) -/

/-- `t` is `s` with the values of rule R230's table; `Shared` is zeroed or kept as rule R232 says, and the trace is kept. -/
def ResetFrom (s t : State) : Prop :=
  t = { s with
    bank := #v[0, 0, 0, 0], cabLatch := 0, prev := #v[false, false, false], partialCoins := #v[0, 0],
    ctrlCache := #v[0, 0, 0], creepTable := #v[0, 0, 0, 0], creepIdx := #v[0, 0, 0, 0],
    pY := 0, pX := 0, yOverlap := 0, beastIdx := 0, status := .running, pc := .idle,
    irqOut := false, lockout := false, shared := t.shared } ∧
  (s.cfg.resetZeroesShared = true → ∀ a, t.shared.get a = 0) ∧
  (s.cfg.resetZeroesShared = false → t.shared = s.shared)

/-- A cold reset cuts a slot short that has left `m` in `Shared` and made the drives `d`: these stay made, the reset's own
effect apart (rule R231). The resets still to come are `later`. -/
def CutShort (s : State) (later : List Nat) (m : Memory) (d : List (Port × Bool))
    (o : Host.Outcome State Fault Refusal) : Prop :=
  ∃ t, o = .next t ∧ ResetFrom { s with coldResets := later, shared := m, trace := s.trace ++ d } t

/-! ### Credit tracker (rules R100 to R108) -/

/-- The byte signal `j` is taken from (rule R101). Signal 0 is coin A, 1 coin B, 2 the service button, the order of `prev`,
`SIG_SRC` and `SIG_BIT` (rule R100). -/
def State.sourceByte (s : State) (j : Fin 3) : Byte :=
  match s.cfg.sigSrc[j] with
  | .cab => s.cabLatch
  | .bank b => s.bank[b]

/-- This frame's bit of signal `j`, `(src >> SIG_BIT) & 1` (rule R101). -/
def State.frameBit (s : State) (j : Fin 3) : Bool := (s.sourceByte j).toNat / 2 ^ s.cfg.sigBit[j].val % 2 == 1

/-- `FELL`: the signal's previous bit is set and this frame's is clear (rule R100). -/
def State.Fell (s : State) (j : Fin 3) : Prop := s.prev[j] = true ∧ s.frameBit j = false

/-- The price of coin line `l`, the entry `(bank >> PRICE_SHIFT) & 3` of the pricing table (rule R103). -/
def State.linePrice (s : State) (l : Fin 2) : Price :=
  s.cfg.price[s.bank[s.cfg.priceBank[l]].toNat / 2 ^ s.cfg.priceShift[l].val % 4]

/-- What the coin and service lines change: the partial-coin counters, the phony counter, whether "credits changed" was
raised. -/
structure Ledger where
  partialCoins : Vector Byte 2
  phony        : Byte
  changed      : Bool
deriving DecidableEq, Repr

/-- An award of `n` credits (rule R106); the phony counter wraps at 256. -/
def Ledger.awarded (x : Ledger) (n : Byte) : Ledger := { x with phony := x.phony + n, changed := true }

/-- One falling edge on coin line `l` at price `p` (rules R103 to R105). -/
def Ledger.coin (x : Ledger) (l : Fin 2) (p : Price) : Ledger :=
  if p.need ≤ 1 then x.awarded p.award
  else if x.partialCoins[l] + 1 = p.need then { x with partialCoins := x.partialCoins.set l 0 }.awarded p.award
  else { x with partialCoins := x.partialCoins.set l (x.partialCoins[l] + 1) }

/-- The ledger a tick's slot 2 starts from. -/
def State.ledger (s : State) : Ledger := ⟨s.partialCoins, s.shared.get s.cfg.aPhony, false⟩

open Classical in
/-- The ledger after coin line A, the first of the three lines (rule R102). -/
noncomputable def State.ledgerAfterCoinA (s : State) : Ledger :=
  if s.Fell 0 then s.ledger.coin 0 (s.linePrice 0) else s.ledger

open Classical in
/-- The ledger after coin lines A and B, in that order (rule R102). -/
noncomputable def State.ledgerAfterCoins (s : State) : Ledger :=
  if s.Fell 1 then s.ledgerAfterCoinA.coin 1 (s.linePrice 1) else s.ledgerAfterCoinA

/-- The service line finds the phony counter at its ceiling (rule R107). -/
def State.ServiceAtCeiling (s : State) : Prop :=
  s.Fell 2 ∧ s.cfg.creditCeiling ≤ s.ledgerAfterCoins.phony

open Classical in
/-- The ledger after the service line (rule R107): one credit, below the ceiling only. -/
noncomputable def State.ledgerAfterLines (s : State) : Ledger :=
  if s.Fell 2 ∧ ¬ s.ServiceAtCeiling then s.ledgerAfterCoins.awarded 1 else s.ledgerAfterCoins

/-! ### Controllers (rules R121 to R127) -/

/-- The value `INC` and `DEC` start from (rule R123). -/
def State.operandOf (s : State) (c : Fin 3) : Byte :=
  match s.cfg.ctrlOperand with
  | .cache => s.ctrlCache[c]
  | .output => s.shared.get s.cfg.aCtrlOut[c]

/-- The index of the derive table that the four bank samples make, the first listed bit the most significant (rule R122,
log entry 12). -/
def deriveIndex (bank : Vector Byte 4) : List (Fin 4 × Fin 8) → Nat
  | [] => 0
  | (b, k) :: rest => (if bank[b].getLsbD k.val then 2 ^ rest.length else 0) + deriveIndex bank rest

/-- `r` is what `DERIVE` gives on controller `k`: the table's entry for the bank samples (rule R122). -/
def State.Derives (s : State) (k : Fin 2) (r : Byte) : Prop :=
  s.cfg.ctrlDerive[k].table[deriveIndex s.bank s.cfg.ctrlDerive[k].bits]? = some r

/-- `min(v + n, MAX)` over the unbounded integers (rule R123, where `n` is 1). -/
def State.incremented (s : State) (c : Fin 3) (n : Byte) : Byte :=
  if (s.operandOf c).toNat + n.toNat ≤ s.cfg.ctrlMax[c].toNat then s.operandOf c + n else s.cfg.ctrlMax[c]

/-- `r` is the result of a credit-variant operation (rules R122 to R125). -/
def State.CreditResult (s : State) (k : Fin 2) (r : Byte) : CreditOp → Prop
  | .derive => s.Derives k r
  | .inc => r = s.incremented k.castSucc 1
  | .dec => r = s.operandOf k.castSucc - 1
  | .setMax => r = s.cfg.ctrlMax[k.castSucc]

/-- The result of a level-variant operation (rules R123, R126, R130). -/
def State.levelResult (s : State) : LevelOp → Byte
  | .set00 => s.cfg.levelTargets.set00
  | .inc => s.incremented 2 s.cfg.levelTargets.plus
  | .set31 => s.cfg.levelTargets.set31
  | .set62 => s.cfg.levelTargets.set62
  | .set63 => s.cfg.levelTargets.set63
  | .set64 => s.cfg.levelTargets.set64
  | .set65 => s.cfg.levelTargets.set65

/-- `o` is the state after controller `c`, in slot `n`, completed with result `r` (rule R127): the output cell and the
register hold `r`, the command cell holds 0, nothing else changed, the next slot follows. -/
def CompletedWith (s : State) (c : Fin 3) (n : Fin 21) (r : Byte) (o : Host.Outcome State Fault Refusal) : Prop :=
  ∃ m, o = .next { s with pc := .slot (n + 1), ctrlCache := s.ctrlCache.set c r, shared := m } ∧
    m.get s.cfg.aCtrlOut[c] = r ∧ m.get s.cfg.aCtrlCmd[c] = 0 ∧
    ∀ a, a ≠ s.cfg.aCtrlOut[c] → a ≠ s.cfg.aCtrlCmd[c] → m.get a = s.shared.get a

/-- Under `HOST_INTERLEAVE` the HOST writes `v` to controller `c`'s command cell, before access number `place` of the slot (the
first is number 0), and nothing else. -/
def State.CommandRaced (s : State) (c : Fin 3) (place : Nat) (v : Byte) : Prop :=
  s.cfg.hostInterleave = true ∧ s.coldResets = [] ∧
  s.hostRace = List.replicate place [] ++ [[⟨BitVec.ofNat 10 (s.cfg.aCtrlCmd[c] - 0xC00), v⟩]]

/-! ### Beastie relay (rules R150 to R163), for the sweep of player `p` from state `s` -/

/-- The liveness bit of player `p` is set (rule R151). -/
def State.PlayerLive (s : State) (p : Fin 2) : Prop := s.shared.get s.cfg.aPLive[p] &&& s.cfg.liveMask ≠ 0

/-- Beastie `i` is live: bit 0 of its stage byte (rule R153). -/
def State.BeastieLive (s : State) (i : Fin 7) : Prop := (s.shared.get s.cfg.aBStage[i]).getLsbD 0 = true

/-- The player's and the beastie's coordinates, vertical then horizontal. -/
def State.playerY (s : State) (p : Fin 2) : Byte := s.shared.get s.cfg.aPY[p]
def State.playerX (s : State) (p : Fin 2) : Byte := s.shared.get s.cfg.aPX[p]
def State.beastieY (s : State) (i : Fin 7) : Byte := s.shared.get s.cfg.aBY[i]
def State.beastieX (s : State) (i : Fin 7) : Byte := s.shared.get s.cfg.aBX[i]

/-- `|pv - bv|` (rule R154). -/
def distance (pv bv : Byte) : Nat := (pv.toNat - bv.toNat) + (bv.toNat - pv.toNat)

/-- The direction code (rule R154). -/
def direction (cfg : Cfg) (pv bv : Byte) : Byte :=
  if pv.toNat = bv.toNat then cfg.codeCentered
  else if pv.toNat < bv.toNat then cfg.codeAboveRight
  else cfg.codeBelowLeft

/-- Beastie `i` is live and overlaps the player vertically (rule R156). -/
def State.OverlapsY (s : State) (p : Fin 2) (i : Fin 7) : Prop :=
  s.BeastieLive i ∧ distance (s.playerY p) (s.beastieY i) < s.cfg.overlapLimit.toNat

/-- Beastie `i` is live and overlaps the player horizontally (rule R158). -/
def State.OverlapsX (s : State) (p : Fin 2) (i : Fin 7) : Prop :=
  s.BeastieLive i ∧ distance (s.playerX p) (s.beastieX i) < s.cfg.overlapLimit.toNat

/-- The collision condition at beastie `i` (rule R158): an X-overlap of this beastie, a Y-overlap of any beastie up to it. -/
def State.CollidesAt (s : State) (p : Fin 2) (i : Fin 7) : Prop :=
  s.OverlapsX p i ∧ ∃ j, j ≤ i ∧ s.OverlapsY p j

/-- The sweep gets to beastie `i` (rule R160): no earlier beastie ended it. -/
def State.Reaches (s : State) (p : Fin 2) (i : Fin 7) : Prop := ∀ j, j < i → ¬ s.CollidesAt p j

open Classical in
/-- How many live beasties that the sweep gets to overlap the player vertically (rule R156). -/
noncomputable def State.overlapCount (s : State) (p : Fin 2) : Nat :=
  ([0, 1, 2, 3, 4, 5, 6].filter fun i : Fin 7 => s.Reaches p i ∧ s.OverlapsY p i).length

/-- The memory `m` after player `p`'s sweep from `s` (rules R153 to R160): fresh outputs for each live beastie the sweep got
to, the kill cells when it ended in a collision, and every other cell as it was. -/
def SweepMemory (s : State) (p : Fin 2) (m : Memory) : Prop :=
  (∀ i, s.Reaches p i → s.BeastieLive i →
    m.get s.cfg.aOVCode[p][i] = direction s.cfg (s.playerY p) (s.beastieY i) ∧
    (m.get s.cfg.aOVDist[p][i]).toNat = distance (s.playerY p) (s.beastieY i) ∧
    m.get s.cfg.aOHCode[p][i] = direction s.cfg (s.playerX p) (s.beastieX i) ∧
    (m.get s.cfg.aOHDist[p][i]).toNat = distance (s.playerX p) (s.beastieX i)) ∧
  (∀ i, ¬ (s.Reaches p i ∧ s.BeastieLive i) →
    m.get s.cfg.aOVCode[p][i] = s.shared.get s.cfg.aOVCode[p][i] ∧
    m.get s.cfg.aOVDist[p][i] = s.shared.get s.cfg.aOVDist[p][i] ∧
    m.get s.cfg.aOHCode[p][i] = s.shared.get s.cfg.aOHCode[p][i] ∧
    m.get s.cfg.aOHDist[p][i] = s.shared.get s.cfg.aOHDist[p][i]) ∧
  (∀ i, s.Reaches p i → s.CollidesAt p i →
    m.get s.cfg.aKillReq[p] = s.cfg.vKill ∧ m.get s.cfg.aKillIdx[p] = BitVec.ofNat 8 i.val) ∧
  ((∀ i, ¬ s.CollidesAt p i) →
    m.get s.cfg.aKillReq[p] = s.shared.get s.cfg.aKillReq[p] ∧
    m.get s.cfg.aKillIdx[p] = s.shared.get s.cfg.aKillIdx[p]) ∧
  ∀ a, a ∉ s.cfg.beastOutCells p → a ≠ s.cfg.aKillReq[p] → a ≠ s.cfg.aKillIdx[p] → m.get a = s.shared.get a

/-- The loop index the sweep leaves (rules R153, R160): the beastie that ended it, else 6. -/
def SweepIndex (s : State) (p : Fin 2) (j : BitVec 3) : Prop :=
  (∀ i, s.Reaches p i → s.CollidesAt p i → j = BitVec.ofNat 3 i.val) ∧ ((∀ i, ¬ s.CollidesAt p i) → j = 6)

open Classical in
/-- How many live beasties overlap the player vertically, in a sweep that nothing ends early (rule R156). -/
noncomputable def State.overlapsOfAll (s : State) (p : Fin 2) : Nat :=
  ([0, 1, 2, 3, 4, 5, 6].filter fun i : Fin 7 => s.OverlapsY p i).length

/-- The memory `m` after a sweep of player `p` from `s` that nothing ended early and that requested no kill: fresh outputs
for every live beastie, and every other cell but the player's liveness as it was (rules R153 to R159). -/
def FullSweepMemory (s : State) (p : Fin 2) (m : Memory) : Prop :=
  (∀ i, s.BeastieLive i →
    m.get s.cfg.aOVCode[p][i] = direction s.cfg (s.playerY p) (s.beastieY i) ∧
    (m.get s.cfg.aOVDist[p][i]).toNat = distance (s.playerY p) (s.beastieY i) ∧
    m.get s.cfg.aOHCode[p][i] = direction s.cfg (s.playerX p) (s.beastieX i) ∧
    (m.get s.cfg.aOHDist[p][i]).toNat = distance (s.playerX p) (s.beastieX i)) ∧
  (∀ i, ¬ s.BeastieLive i →
    m.get s.cfg.aOVCode[p][i] = s.shared.get s.cfg.aOVCode[p][i] ∧
    m.get s.cfg.aOVDist[p][i] = s.shared.get s.cfg.aOVDist[p][i] ∧
    m.get s.cfg.aOHCode[p][i] = s.shared.get s.cfg.aOHCode[p][i] ∧
    m.get s.cfg.aOHDist[p][i] = s.shared.get s.cfg.aOHDist[p][i]) ∧
  ∀ a, a ∉ s.cfg.beastOutCells p → a ≠ s.cfg.aPLive[p] → m.get a = s.shared.get a

/-! ### Slots cut short (rules R231, R232) -/

/-- The cells of translator `x`: the destination that base and offset give, then the status (rules R188 to R190). -/
def State.copyCells (s : State) (x : Fin 3) : List Nat :=
  [s.cfg.xlBase[x] + (s.shared.get s.cfg.aXlOffset[x]).toNat, s.cfg.aXlStatus[x]]

/-- The cells that slot `n` may write, in the order it writes them: a write left out leaves the order of the others. Slot 2
writes its two in this order once for each award (rule R106). -/
def State.slotCells (s : State) (n : Fin 21) : List Nat :=
  match n.val with
  | 1 => s.cfg.aCabMirror :: s.cfg.aBankMirror.toList
  | 2 => [s.cfg.aPhony, s.cfg.aChanged]
  | 4 => [s.cfg.aCtrlOut[(0 : Fin 3)], s.cfg.aCtrlCmd[(0 : Fin 3)]]
  | 5 => [s.cfg.aCtrlOut[(1 : Fin 3)], s.cfg.aCtrlCmd[(1 : Fin 3)]]
  | 6 => [s.cfg.aCtrlOut[(2 : Fin 3)], s.cfg.aCtrlCmd[(2 : Fin 3)]]
  | 7 => s.cfg.sweepCells 0
  | 8 => s.cfg.sweepCells 1
  | 9 => [s.cfg.aCreepOut[(0 : Fin 4)]]
  | 10 => [s.cfg.aCreepOut[(1 : Fin 4)]]
  | 11 => [s.cfg.aCreepOut[(2 : Fin 4)]]
  | 12 => [s.cfg.aCreepOut[(3 : Fin 4)]]
  | 13 => [s.cfg.aClkActive, s.cfg.aClkDone, s.cfg.aClkHi, s.cfg.aClkLo]
  | 14 => [s.cfg.aPhony]
  | 15 => [s.cfg.aExtend]
  | 16 => s.copyCells 0
  | 17 => s.copyCells 1
  | 18 => s.copyCells 2
  | _ => []

/-- The memory `m` of slot `n` cut short from state `s`, where the undisturbed slot leaves `t`: the slot's cells hold what `t`
has, up to some point of its writes, and what `s` has from there on; every other cell is as it was. In slot 2 the phony
counter may have had several writes, one for each line that awarded: it holds the count after some number of the lines. -/
def StoresCutShort (s : State) (n : Fin 21) (t : State) (m : Memory) : Prop :=
  (∀ a, a ∉ s.slotCells n → m.get a = s.shared.get a) ∧
  (n ≠ 2 → ∃ k, (∀ a ∈ (s.slotCells n).take k, m.get a = t.shared.get a) ∧
    ∀ a ∈ (s.slotCells n).drop k, m.get a = s.shared.get a) ∧
  (n = 2 → (m.get s.cfg.aChanged = s.shared.get s.cfg.aChanged ∨ m.get s.cfg.aChanged = t.shared.get s.cfg.aChanged) ∧
    ∃ x ∈ [s.ledger, s.ledgerAfterCoinA, s.ledgerAfterCoins, s.ledgerAfterLines], m.get s.cfg.aPhony = x.phony)

/-! ### Creepers -/

/-- Creeper `k`'s cursor stands on the sentinel of its latched table (rules R141, R144). -/
def State.OnSentinel (s : State) (k : Fin 4) : Prop :=
  ∃ table, s.cfg.creepTables[s.creepTable[k].toNat]? = some table ∧ s.creepIdx[k].toNat = table.length

/-- Creeper `k` in `ticks` ticks during which its selector cell holds `n`: `before j` and `after j` are the states around its
slot in tick `j`. Between two ticks anything may happen that leaves the configuration, the creeper's registers and its
selector cell alone. -/
structure CreeperTicks (k : Fin 4) (i : Instr) (n : Byte) (ticks : Nat) (before after : Nat → State) : Prop where
  quiet    : ∀ j, j < ticks → (before j).Quiet
  cfg      : ∀ j, j < ticks → (before j).cfg = (before 0).cfg
  selector : ∀ j, j < ticks → (before j).shared.get (before 0).cfg.aCreepSel[k] = n
  runs     : ∀ j, j < ticks → exec i (before j) = .next (after j)
  kept     : ∀ j, j + 1 < ticks → (before (j + 1)).creepTable[k] = (after j).creepTable[k] ∧
    (before (j + 1)).creepIdx[k] = (after j).creepIdx[k]

/-- A cycle of table `n` begins: the cursor is on the sentinel (rule R144), or at the first element of table `n`, as it is for
table 0 after a reset (rule R146). -/
def State.CycleBegins (s : State) (k : Fin 4) (n : Byte) : Prop :=
  s.OnSentinel k ∨ s.creepTable[k] = n ∧ s.creepIdx[k] = 0

/-! ### Clock -/

/-- The clock's count, `hi:lo` (rule R171). -/
def State.clockCount (s : State) : Nat := (s.shared.get s.cfg.aClkHi).toNat * 256 + (s.shared.get s.cfg.aClkLo).toNat

/-- The four cells of the clock (rule R171) hold in `t` what they hold in `s`. -/
def SameClockCells (s t : State) : Prop :=
  ∀ a ∈ [s.cfg.aClkActive, s.cfg.aClkHi, s.cfg.aClkLo, s.cfg.aClkDone], t.shared.get a = s.shared.get a

/-- The clock's slot in `ticks` ticks: `before j` is the state before it in tick `j`. Between two ticks anything may happen that
leaves the configuration and the clock's four cells alone. -/
structure ClockTicks (ticks : Nat) (before : Nat → State) : Prop where
  quiet : ∀ j, j < ticks → (before j).Quiet
  cfg   : ∀ j, j < ticks → (before j).cfg = (before 0).cfg
  kept  : ∀ j t, j + 1 < ticks → exec .clock (before j) = .next t → SameClockCells t (before (j + 1))

/-! ### Runs -/

/-- The level last driven on port `p` in a piece of trace (rules R25, R26). -/
def lastLevel (p : Port) (l : List (Port × Bool)) : Option Bool := ((l.filter fun d => d.1 = p).getLast?).map (·.2)

/-- An outcome with its next state changed by `f`. -/
def mapNext (f : State → State) : Host.Outcome State Fault Refusal → Host.Outcome State Fault Refusal
  | .next s => .next (f s)
  | .fault r => .fault r
  | .refused r => .refused r

end Sys2Proof.Machine
end

