-- ==== Sys2Proof/Certificates/Slice0/Obligations.lean ====
section
/-!
DEFINITION. The statements for the provers. `s.Quiet` says that the environment keeps out of the tick (rule R51), and
`s.cfg.Valid` that the configuration is one the spec gives meaning to (rule R7). A statement of the form
`exec i s = .next { s with … }` gives the whole next state: what it does not list is unchanged.
-/

open Sys2Proof Sys2Proof.Machine

/-! ### Encoding -/

/-- Decoding an encoded instruction gives it back: every constructor, every operand, every configuration whose command
maps are one-hot (rules R64 to R66) and whose two lock commands and two translator sentinels differ. -/
def Obligations.DecodeOfEncode : Prop :=
  ∀ cfg : Cfg, cfg.MapsOneHot → cfg.vLockEngage ≠ cfg.vLockDisengage → cfg.vXlArmed ≠ cfg.vXlDone →
    ∀ i : Instr, decode cfg (encode cfg i) = .ok i

/-- An encoding that decodes is the encoding of what it decodes to: no encoding stands for two instructions (rule R61: the
match is on all eight bits), no bit is dropped. -/
def Obligations.EncodeOfDecode : Prop :=
  ∀ (cfg : Cfg) (e : Encoding) (i : Instr), decode cfg e = .ok i → encode cfg i = e

/-- A host-script line decodes in front of any further bytes, and the decoder takes exactly the line (rule R73). -/
def Obligations.ScriptLineFirst : Prop :=
  ∀ (cfg : Cfg) (i : Instr) (line rest : List Byte), encode cfg i = .script line →
    decodeScript (line ++ rest) = .ok (i, rest)

/-- Words written out by hand from rules R60, R62, R67 and R73. -/
def Obligations.HandWords : Prop :=
  decode Cfg.ref (.slot 0b01101) = .ok .clock ∧
  decode Cfg.ref (.cmd .irqMarker 0x47) = .ok .irqReady ∧
  decode Cfg.ref (.cmd .lockCmd 0xFF) = .ok .lockDisengage ∧
  decode Cfg.ref (.cmd (.ctrlCmd 1) 0x04) = .ok .ctrl1Dec ∧
  decode Cfg.ref (.cmd (.ctrlCmd 2) 0x08) = .ok .ctrl2Set62 ∧
  decode Cfg.ref (.script [0x57, 0x0C, 0x05, 0x47]) = .ok (.hw 0xC05 0x47) ∧
  decode Cfg.ref (.script [0x49, 0x00, 0x20]) = .ok (.inp 0 0x20)

/-! ### Fetch -/

/-- While a tick runs, a step is `exec` of the instruction that the slot number decodes to (rules R23, R60). -/
def Obligations.StepRunsSlot : Prop :=
  ∀ (s : State) (n : Fin 21) (i : Instr), s.status = .running → s.pc = .slot n →
    decode s.cfg (.slot (BitVec.ofNat 5 n.val)) = .ok i → step s = exec i s

/-- Between ticks, and in a terminal status, a step is `exec` of the script line at the front of the script, which is taken
off it (rule R73; one line is one step, log entry 3). -/
def Obligations.StepRunsScriptLine : Prop :=
  ∀ (s : State) (line rest : List Byte) (i : Instr), s.status ≠ .running ∨ s.pc = .idle →
    s.script = line ++ rest → decode s.cfg (.script line) = .ok i →
    step s = exec i { s with script := rest }

/-- With the script used up the trigger comes by itself (rules R207, R216); a terminal status ignores it. That the end of
the script means free running is the model's choice (log entry 3). -/
def Obligations.StepFreeRuns : Prop :=
  ∀ s : State, s.script = [] →
    (s.status = .running → s.pc = .idle → step s = .next { s with pc := .slot 0 }) ∧
    (s.status ≠ .running → step s = .next s)

/-- A slot that finds a command in its cell does what the command's own instruction does (rules R61 to R63): the slot is
the one that reads the cell, and for a gate cell the controller's command is 0. -/
def Obligations.SlotRunsCommand : Prop :=
  ∀ (s : State) (cell : CmdCell) (j i : Instr), s.Quiet → s.cfg.Valid →
    decode s.cfg (.slot (BitVec.ofNat 5 (cellSlot cell).val)) = .ok j →
    decode s.cfg (.cmd cell (s.shared.get (cellAddr s.cfg cell))) = .ok i →
    (∀ c, cell = .ctrlGate c → s.shared.get s.cfg.aCtrlCmd[c] = 0) →
    exec j s = exec i s

/-- Rule R70's values with no operation: the slot does nothing and leaves the cell unchanged. The gate cell is read when
the controller's command is 0. -/
def Obligations.ValuesWithoutOperation : Prop :=
  ∀ s : State, s.Quiet → s.cfg.Valid → s.cfg.D0Constants →
    (s.shared.get s.cfg.aIrqMarker ≠ 0x47 → exec .irq s = .next { s with pc := .slot 1 }) ∧
    (s.shared.get s.cfg.aLockCmd ≠ 0x01 → s.shared.get s.cfg.aLockCmd ≠ 0xFF →
      exec .lock s = .next { s with pc := .slot 4 }) ∧
    (∀ t i n, (t, i, n) ∈ translatorSlots → s.shared.get s.cfg.aXlStatus[t] ≠ 0x01 →
      exec i s = .next { s with pc := .slot (n + 1) }) ∧
    (s.shared.get s.cfg.aResetCmd ≠ 0x4A → exec .rstw s = .next { s with pc := .slot 20 }) ∧
    (s.shared.get s.cfg.aMischiefEn ≠ 0x0D → exec .mischief s = .next { s with pc := .slot 15 }) ∧
    (∀ c i n, (c, i, n) ∈ controllerSlots → s.shared.get s.cfg.aCtrlCmd[c] = 0 →
      s.shared.get s.cfg.aCtrlGate[c] ≠ 0x42 → exec i s = .next { s with pc := .slot (n + 1) }) ∧
    (s.shared.get s.cfg.aClkActive = 0 → exec .clock s = .next { s with pc := .slot 14 })

/-! ### Interrupt gate, input relay -/

/-- `IRQ` and `IRQ.READY` (rules R82, R83): with the marker in its cell the line is driven low, high, low, the first drive
made even when the line is already low; else nothing. No cell is written. -/
def Obligations.IrqSlot : Prop :=
  ∀ s : State, s.Quiet → s.cfg.Valid →
    (s.shared.get s.cfg.aIrqMarker = s.cfg.vIrqReady →
      exec .irq s = .next { s with
        pc := .slot 1, irqOut := false, trace := s.trace ++ [(.irqOut, false), (.irqOut, true), (.irqOut, false)] }) ∧
    (s.shared.get s.cfg.aIrqMarker ≠ s.cfg.vIrqReady → exec .irq s = .next { s with pc := .slot 1 }) ∧
    exec .irqReady s = .next { s with
      pc := .slot 1, irqOut := false, trace := s.trace ++ [(.irqOut, false), (.irqOut, true), (.irqOut, false)] }

/-- `INREL` (rule R84): the five bytes go unchanged into their registers and their mirrors, and nothing else changes; a byte
that a script line holds is the one sampled (rule R73). -/
def Obligations.InputRelay : Prop :=
  ∀ s : State, s.Quiet → s.cfg.Valid →
    ∃ (v : Byte) (w : Vector Byte 4) (m : Memory) (d : Nat),
      exec .inrel s = .next { s with pc := .slot 2, cabLatch := v, bank := w, shared := m, draws := d } ∧
      (∀ x, s.heldCab = some x → v = x) ∧ (∀ (b : Fin 4) x, s.heldBank[b] = some x → w[b] = x) ∧
      m.get s.cfg.aCabMirror = v ∧ (∀ b : Fin 4, m.get s.cfg.aBankMirror[b] = w[b]) ∧
      ∀ a, a ≠ s.cfg.aCabMirror → (∀ b : Fin 4, a ≠ s.cfg.aBankMirror[b]) → m.get a = s.shared.get a

/-! ### Credit tracker and coin lockout -/

/-- `CREDIT` (rules R100 to R108): all three previous bits are replaced by this frame's, `(src >> SIG_BIT) & 1` of the byte that
`SIG_SRC` names; the coin lines, each at the price that its two DIP bits select, the service line and the threshold
act in that order on one phony counter; the flag cell is written only when something was awarded. -/
def Obligations.CreditSlot : Prop :=
  ∀ s : State, s.Quiet → s.cfg.Valid →
    ∃ (m : Memory) (l : Bool) (d : List (Port × Bool)),
      exec .credit s = .next { s with
        pc := .slot 3, prev := #v[s.frameBit 0, s.frameBit 1, s.frameBit 2],
        partialCoins := s.ledgerAfterLines.partialCoins, shared := m, lockout := l,
        trace := s.trace ++ d ++ [(.lockout, l)] } ∧
      (l = true ↔ s.cfg.creditCeiling ≤ s.ledgerAfterLines.phony) ∧
      (s.ServiceAtCeiling → d = [(.lockout, true)]) ∧ (¬ s.ServiceAtCeiling → d = []) ∧
      m.get s.cfg.aPhony = s.ledgerAfterLines.phony ∧
      (s.ledgerAfterLines.changed = true → m.get s.cfg.aChanged = s.cfg.vChanged) ∧
      (s.ledgerAfterLines.changed = false → m.get s.cfg.aChanged = s.shared.get s.cfg.aChanged) ∧
      ∀ a, a ≠ s.cfg.aPhony → a ≠ s.cfg.aChanged → m.get a = s.shared.get a

/-- Two coins for one credit: with a price of `need` 2, two falling edges of coin A in two runs of slot 2 add one award to
the phony counter, and the partial counter is back at 0 (rules R103, R104, R112). -/
def Obligations.TwoCoinsOneCredit : Prop :=
  ∀ s t u : State, s.Quiet → s.cfg.Valid → (s.linePrice 0).need = 2 → s.partialCoins[0] = 0 →
    s.Fell 0 → ¬ s.Fell 1 → ¬ s.Fell 2 →
    exec .credit s = .next t → u = { t with prev := #v[true, false, false] } →
    t.shared.get s.cfg.aPhony = s.shared.get s.cfg.aPhony ∧ t.partialCoins[0] = 1 ∧
    ∃ r, exec .credit u = .next r ∧ r.partialCoins[0] = 0 ∧
      r.shared.get s.cfg.aPhony = s.shared.get s.cfg.aPhony + (s.linePrice 0).award ∧
      r.shared.get s.cfg.aChanged = s.cfg.vChanged

/-- `LOCK` (rule R110), `LOCK.ENGAGE`, `LOCK.DISENGAGE` (rule R109): the HOST's command is applied and stands; any other value
is a no-op; driving the level already held changes the trace only. -/
def Obligations.LockSlot : Prop :=
  ∀ s : State, s.Quiet → s.cfg.Valid → s.cfg.vLockEngage ≠ s.cfg.vLockDisengage →
    (s.shared.get s.cfg.aLockCmd = s.cfg.vLockEngage →
      exec .lock s = .next { s with pc := .slot 4, lockout := true, trace := s.trace ++ [(.lockout, true)] }) ∧
    (s.shared.get s.cfg.aLockCmd = s.cfg.vLockDisengage →
      exec .lock s = .next { s with pc := .slot 4, lockout := false, trace := s.trace ++ [(.lockout, false)] }) ∧
    (s.shared.get s.cfg.aLockCmd ≠ s.cfg.vLockEngage → s.shared.get s.cfg.aLockCmd ≠ s.cfg.vLockDisengage →
      exec .lock s = .next { s with pc := .slot 4 }) ∧
    exec .lockEngage s = .next { s with pc := .slot 4, lockout := true, trace := s.trace ++ [(.lockout, true)] } ∧
    exec .lockDisengage s = .next { s with pc := .slot 4, lockout := false, trace := s.trace ++ [(.lockout, false)] }

/-- The lockout thrash (rule R111): with a HOST command against the threshold's decision, slots 2 and 3 leave both drives in
the trace, and the HOST's level stands. -/
def Obligations.LockoutThrash : Prop :=
  ∀ s : State, s.Quiet → s.cfg.Valid → s.cfg.vLockEngage ≠ s.cfg.vLockDisengage → s.status = .running →
    s.pc = .slot 2 → ∀ l : Bool,
    (s.cfg.creditCeiling ≤ s.ledgerAfterLines.phony ↔ l = true) →
    s.shared.get s.cfg.aLockCmd = (if l then s.cfg.vLockDisengage else s.cfg.vLockEngage) →
    ∃ t u d, step s = .next t ∧ step t = .next u ∧ u.pc = .slot 4 ∧ u.lockout = !l ∧
      u.trace = s.trace ++ d ++ [(.lockout, l), (.lockout, !l)]

/-! ### Controllers -/

/-- `CTRL0`, `CTRL1`, `CTRL2` with a mapped command (rules R121, R127, R130): exactly the command's operation is executed, and
the command cell is zeroed. -/
def Obligations.ControllerServes : Prop :=
  ∀ s : State, s.Quiet → s.cfg.Valid →
    (∀ (k : Fin 2) (i : Instr) (n : Fin 21) (op : CreditOp), (k.castSucc, i, n) ∈ controllerSlots →
      s.shared.get s.cfg.aCtrlCmd[k.castSucc] = s.cfg.creditMap[k].byteOf op →
      ∃ r, s.CreditResult k r op ∧ CompletedWith s k.castSucc n r (exec i s)) ∧
    ∀ op : LevelOp, s.shared.get s.cfg.aCtrlCmd[(2 : Fin 3)] = s.cfg.levelMap.byteOf op →
      CompletedWith s 2 6 (s.levelResult op) (exec .ctrl2 s)

/-- `CTRL.IDLE`, the three slots on command 0, and `DIAG.GATE` (rule R128): `Poisoned` exactly when the gate cell holds its
marker (for `DIAG.GATE` it has been found there) and the output cell differs from the register; nothing is written. -/
def Obligations.ControllerIdle : Prop :=
  ∀ (s : State) (c : Fin 3) (j : Instr) (n : Fin 21) (i : Instr), s.Quiet → s.cfg.Valid →
    (c, j, n) ∈ controllerSlots → i = .ctrlIdle c ∨ i = j ∧ s.shared.get s.cfg.aCtrlCmd[c] = 0 →
    (s.shared.get s.cfg.aCtrlGate[c] = s.cfg.vDiag ∧ s.shared.get s.cfg.aCtrlOut[c] ≠ s.ctrlCache[c] →
      exec i s = .next { s with pc := .slot n, status := .poisoned c }) ∧
    (¬ (s.shared.get s.cfg.aCtrlGate[c] = s.cfg.vDiag ∧ s.shared.get s.cfg.aCtrlOut[c] ≠ s.ctrlCache[c]) →
      exec i s = .next { s with pc := .slot (n + 1) }) ∧
    (s.shared.get s.cfg.aCtrlOut[c] ≠ s.ctrlCache[c] →
      exec (.diagGate c) s = .next { s with pc := .slot n, status := .poisoned c }) ∧
    (s.shared.get s.cfg.aCtrlOut[c] = s.ctrlCache[c] → exec (.diagGate c) s = .next { s with pc := .slot (n + 1) })

/-- A nonzero command byte outside the map (rule R129): refused at the slot, before anything is written. -/
def Obligations.UnmappedCommandRefused : Prop :=
  ∀ (s : State) (v : Byte), s.Quiet → s.cfg.Valid → v ≠ 0 →
    (∀ k i n, (Fin.castSucc k, i, n) ∈ controllerSlots → s.shared.get s.cfg.aCtrlCmd[Fin.castSucc k] = v →
      v ∉ s.cfg.creditMap[k].bytes →
      exec i s = .next { s with pc := .slot n, status := .refused (.unmappedCommand k.castSucc v) }) ∧
    (s.shared.get s.cfg.aCtrlCmd[(2 : Fin 3)] = v → v ∉ s.cfg.levelMap.bytes →
      exec .ctrl2 s = .next { s with pc := .slot 6, status := .refused (.unmappedCommand 2 v) })

/-- `CTRL0.DERIVE`, `CTRL1.DERIVE` (rule R122): the table's entry for the four bank samples; the previous value is not
read. -/
def Obligations.DeriveCommand : Prop :=
  ∀ s : State, s.Quiet → s.cfg.Valid →
    (∃ r, s.Derives 0 r ∧ CompletedWith s 0 4 r (exec .ctrl0Derive s)) ∧
    (∃ r, s.Derives 1 r ∧ CompletedWith s 1 5 r (exec .ctrl1Derive s))

/-- `CTRL0.INC`, `CTRL1.INC`, `CTRL2.INC` (rule R123): `min(v + 1, MAX)`, never a wrap; on the level variant the 1 is the
constant of its target "+1" (rule R5). -/
def Obligations.IncCommand : Prop :=
  ∀ s : State, s.Quiet → s.cfg.Valid →
    CompletedWith s 0 4 (s.incremented 0 1) (exec .ctrl0Inc s) ∧
    CompletedWith s 1 5 (s.incremented 1 1) (exec .ctrl1Inc s) ∧
    CompletedWith s 2 6 (s.incremented 2 s.cfg.levelTargets.plus) (exec .ctrl2Inc s) ∧
    (s.cfg.D0Constants → CompletedWith s 2 6 (s.incremented 2 1) (exec .ctrl2Inc s))

/-- `CTRL0.DEC`, `CTRL1.DEC` (rule R124): decrement with no clamp; 0 gives 255. -/
def Obligations.DecCommand : Prop :=
  ∀ s : State, s.Quiet → s.cfg.Valid →
    CompletedWith s 0 4 (BitVec.ofNat 8 ((s.operandOf 0).toNat + 255)) (exec .ctrl0Dec s) ∧
    CompletedWith s 1 5 (BitVec.ofNat 8 ((s.operandOf 1).toNat + 255)) (exec .ctrl1Dec s)

/-- `CTRL0.SETMAX`, `CTRL1.SETMAX` (rule R125). -/
def Obligations.SetMaxCommand : Prop :=
  ∀ s : State, s.Quiet → s.cfg.Valid →
    CompletedWith s 0 4 s.cfg.ctrlMax[(0 : Fin 3)] (exec .ctrl0SetMax s) ∧
    CompletedWith s 1 5 s.cfg.ctrlMax[(1 : Fin 3)] (exec .ctrl1SetMax s)

/-- `CTRL2.SET00`, `SET31`, `SET62`, `SET63`, `SET64`, `SET65` (rule R126): with D0's constants the results are the bytes the
names give. -/
def Obligations.SetCommands : Prop :=
  ∀ s : State, s.Quiet → s.cfg.Valid → s.cfg.D0Constants →
    CompletedWith s 2 6 0x00 (exec .ctrl2Set00 s) ∧ CompletedWith s 2 6 0x31 (exec .ctrl2Set31 s) ∧
    CompletedWith s 2 6 0x62 (exec .ctrl2Set62 s) ∧ CompletedWith s 2 6 0x63 (exec .ctrl2Set63 s) ∧
    CompletedWith s 2 6 0x64 (exec .ctrl2Set64 s) ∧ CompletedWith s 2 6 0x65 (exec .ctrl2Set65 s)

/-! ### Beastie relays -/

/-- The guard (rule R151): a player whose liveness bit is 0 has nothing written, no register included. -/
def Obligations.BeastieGuard : Prop :=
  ∀ (s : State) (p : Fin 2) (i : Instr) (n : Fin 21), s.Quiet → s.cfg.Valid → (p, i, n) ∈ beastieSlots →
    ¬ s.PlayerLive p → exec i s = .next { s with pc := .slot (n + 1) }

/-- `BEAST0`, `BEAST1` (rules R152 to R163) for a live player: the whole sweep, its outputs, its counter, its kill request
and where it ends. -/
def Obligations.BeastieSweep : Prop :=
  ∀ (s : State) (p : Fin 2) (i : Instr) (n : Fin 21), s.Quiet → s.cfg.Valid → (p, i, n) ∈ beastieSlots →
    s.PlayerLive p →
    ∃ (m : Memory) (j : BitVec 3),
      exec i s = .next { s with
        pc := .slot (n + 1), pX := s.playerX p, pY := s.playerY p, yOverlap := BitVec.ofNat 8 (s.overlapCount p),
        beastIdx := j, shared := m } ∧
      SweepMemory s p m ∧ SweepIndex s p j

/-- The collision defect (rule R161(a) and (b)): with two live beasties, one overlapping the player in Y only and one in X
only, a kill is requested, with the index of the second, exactly when the Y-only one comes first. -/
def Obligations.CollisionDefect : Prop :=
  ∀ (s : State) (p : Fin 2) (i : Instr) (n : Fin 21) (a b : Fin 7), s.Quiet → s.cfg.Valid →
    (p, i, n) ∈ beastieSlots → s.PlayerLive p → (∀ j, s.BeastieLive j ↔ j = a ∨ j = b) →
    s.OverlapsY p a → ¬ s.OverlapsX p a → s.OverlapsX p b → ¬ s.OverlapsY p b →
    ∃ t, exec i s = .next t ∧
      (a < b → t.shared.get s.cfg.aKillReq[p] = s.cfg.vKill ∧ t.shared.get s.cfg.aKillIdx[p] = BitVec.ofNat 8 b.val) ∧
      (b < a → t.shared.get s.cfg.aKillReq[p] = s.shared.get s.cfg.aKillReq[p] ∧
        t.shared.get s.cfg.aKillIdx[p] = s.shared.get s.cfg.aKillIdx[p])

/-- The kill request's answer when the re-check finds the liveness clear (rule R159): nothing is written, and the answer is
that none was made. That this branch writes nothing is the spec's own decision (D21, U11). What the sweep then does is
stated in `RecheckInRace`. -/
def Obligations.FailedRecheck : Prop :=
  ∀ (s : State) (p : Fin 2), s.Quiet → s.cfg.Valid → ¬ s.PlayerLive p → (killRequest p).run s = .ok false s

/-! ### Creepers -/

/-- `CREEP0` to `CREEP3` inside a cycle (rules R142, R143): the latched table's value at the cursor, and the cursor moves on;
the selector cell is not looked at. -/
def Obligations.CreeperEmits : Prop :=
  ∀ (s : State) (k : Fin 4) (i : Instr) (n : Fin 21) (table : List Byte) (v : Byte), s.Quiet → s.cfg.Valid →
    (k, i, n) ∈ creeperSlots → s.cfg.creepTables[s.creepTable[k].toNat]? = some table →
    table[s.creepIdx[k].toNat]? = some v →
    ∃ m, exec i s = .next { s with
        pc := .slot (n + 1), creepIdx := s.creepIdx.set k (s.creepIdx[k] + 1), shared := m } ∧
      m.get s.cfg.aCreepOut[k] = v ∧ ∀ a, a ≠ s.cfg.aCreepOut[k] → m.get a = s.shared.get a

/-- The cycle boundary (rule R144): the selector is latched, and entry 0 of the new table is emitted in the same tick. Over
whole cycles (rule R147): under the named hypothesis `CreeperMeanExact`, while the selector cell holds `n`, the outputs of any
whole number of cycles sum to `n/10` times the number of ticks. -/
def Obligations.CreeperBoundary : Prop :=
  (∀ (s : State) (k : Fin 4) (i : Instr) (n : Fin 21) (table next : List Byte) (v : Byte), s.Quiet → s.cfg.Valid →
    (k, i, n) ∈ creeperSlots → s.cfg.creepTables[s.creepTable[k].toNat]? = some table →
    s.creepIdx[k].toNat = table.length →
    s.cfg.creepTables[(s.shared.get s.cfg.aCreepSel[k]).toNat]? = some next → next[0]? = some v →
    ∃ m, exec i s = .next { s with
        pc := .slot (n + 1), creepTable := s.creepTable.set k (s.shared.get s.cfg.aCreepSel[k]),
        creepIdx := s.creepIdx.set k 1, shared := m } ∧
      m.get s.cfg.aCreepOut[k] = v ∧ ∀ a, a ≠ s.cfg.aCreepOut[k] → m.get a = s.shared.get a) ∧
  ∀ (cfg : Cfg) (k : Fin 4) (i : Instr) (slot : Fin 21) (n : Byte) (table : List Byte) (cycles ticks : Nat)
    (before after : Nat → State), cfg.Valid → cfg.CreeperMeanExact → (k, i, slot) ∈ creeperSlots →
    cfg.creepTables[n.toNat]? = some table → ticks = cycles * table.length → (before 0).cfg = cfg →
    (before 0).CycleBegins k n → CreeperTicks k i n ticks before after →
    10 * ((List.range ticks).map fun j => ((after j).shared.get cfg.aCreepOut[k]).toNat).sum = n.toNat * ticks

/-- A selector above 40 (rule R145): refused when found latched, and refused when it is latched at a boundary; no cell is
written. -/
def Obligations.CreeperSelectorRefused : Prop :=
  ∀ (s : State) (k : Fin 4) (i : Instr) (n : Fin 21), s.Quiet → s.cfg.Valid → (k, i, n) ∈ creeperSlots →
    (40 < s.creepTable[k].toNat →
      exec i s = .next { s with pc := .slot n, status := .refused (.creeperSelector k s.creepTable[k]) }) ∧
    (∀ table, s.cfg.creepTables[s.creepTable[k].toNat]? = some table → s.creepIdx[k].toNat = table.length →
      40 < (s.shared.get s.cfg.aCreepSel[k]).toNat →
      exec i s = .next { s with
        pc := .slot n, creepTable := s.creepTable.set k (s.shared.get s.cfg.aCreepSel[k]),
        status := .refused (.creeperSelector k (s.shared.get s.cfg.aCreepSel[k])) })

/-! ### Clock, mischief, extend -/

/-- `CLOCK` (rules R170 to R173): nothing while inactive; the count stored less one, high byte first; at 0 the active cell
cleared, the done flag raised, the count left alone. A count of 0 wraps to 65535. -/
def Obligations.ClockSlot : Prop :=
  ∀ s : State, s.Quiet → s.cfg.Valid →
    (s.shared.get s.cfg.aClkActive = 0 → exec .clock s = .next { s with pc := .slot 14 }) ∧
    (s.shared.get s.cfg.aClkActive ≠ 0 → s.clockCount = 1 →
      ∃ m, exec .clock s = .next { s with pc := .slot 14, shared := m } ∧
        m.get s.cfg.aClkActive = 0 ∧ m.get s.cfg.aClkDone = s.cfg.vDone ∧
        ∀ a, a ≠ s.cfg.aClkActive → a ≠ s.cfg.aClkDone → m.get a = s.shared.get a) ∧
    (s.shared.get s.cfg.aClkActive ≠ 0 → s.clockCount ≠ 1 →
      ∃ m, exec .clock s = .next { s with pc := .slot 14, shared := m } ∧
        (m.get s.cfg.aClkHi).toNat * 256 + (m.get s.cfg.aClkLo).toNat = (s.clockCount + 65535) % 65536 ∧
        ∀ a, a ≠ s.cfg.aClkHi → a ≠ s.cfg.aClkLo → m.get a = s.shared.get a)

/-- A countdown loaded with `N >= 1` completes in the `N`-th active tick and not before (rule R172), whatever happens between
the ticks that leaves the configuration and the clock's cells alone; the count cells then hold 1. -/
def Obligations.ClockCompletes : Prop :=
  ∀ (cfg : Cfg) (N : Nat) (before : Nat → State), cfg.Valid → (before 0).cfg = cfg →
    (before 0).shared.get cfg.aClkActive ≠ 0 → (before 0).clockCount = N → 1 ≤ N → ClockTicks N before →
    ∀ k, k < N → ∃ t, exec .clock (before k) = .next t ∧
      (k + 1 < N → t.clockCount = N - (k + 1) ∧
        t.shared.get cfg.aClkActive = (before 0).shared.get cfg.aClkActive ∧
        t.shared.get cfg.aClkDone = (before 0).shared.get cfg.aClkDone) ∧
      (k + 1 = N → t.clockCount = 1 ∧ t.shared.get cfg.aClkActive = 0 ∧ t.shared.get cfg.aClkDone = cfg.vDone)

/-- `MISCHIEF` and `MISCHIEF.EN` (rule R175): the phony counter is overwritten when both conditions hold; the flag cell is
not written. -/
def Obligations.Mischief : Prop :=
  ∀ (s : State) (i : Instr), s.Quiet → s.cfg.Valid →
    i = .mischiefEn ∨ i = .mischief ∧ s.shared.get s.cfg.aMischiefEn = s.cfg.vMischiefEn →
    (s.ctrlCache[(2 : Fin 3)] = s.cfg.vMischiefLevel →
      ∃ m, exec i s = .next { s with pc := .slot 15, shared := m } ∧ m.get s.cfg.aPhony = s.cfg.vMischiefCredits ∧
        ∀ a, a ≠ s.cfg.aPhony → m.get a = s.shared.get a) ∧
    (s.ctrlCache[(2 : Fin 3)] ≠ s.cfg.vMischiefLevel → exec i s = .next { s with pc := .slot 15 })

/-- `EXTEND` (rules R177, R178): 0 to 5 go round modulo 6; from 6 up the configuration's table says. -/
def Obligations.ExtendSlot : Prop :=
  ∀ s : State, s.Quiet → s.cfg.Valid → s.cfg.D0Constants →
    ∃ m, exec .extend s = .next { s with pc := .slot 16, shared := m } ∧
      ((s.shared.get s.cfg.aExtend).toNat ≤ 5 →
        (m.get s.cfg.aExtend).toNat = ((s.shared.get s.cfg.aExtend).toNat + 1) % 6) ∧
      (6 ≤ (s.shared.get s.cfg.aExtend).toNat →
        s.cfg.extendOor[(s.shared.get s.cfg.aExtend).toNat - 6]? = some (m.get s.cfg.aExtend)) ∧
      ∀ a, a ≠ s.cfg.aExtend → m.get a = s.shared.get a

/-! ### Translators -/

/-- `XLAT0` to `XLAT2` when armed, and `XLAT.ARM` (rules R186 to R190), for a table selector up to 4: every index is in range,
the table's byte goes to base plus offset, the status
becomes "done", nothing else changes. -/
def Obligations.TranslatorFires : Prop :=
  ∀ (s : State) (t : Fin 3) (j : Instr) (n : Fin 21) (i : Instr), s.Quiet → s.cfg.Valid → (t, j, n) ∈ translatorSlots →
    i = .xlatArm t ∨ i = j ∧ s.shared.get s.cfg.aXlStatus[t] = s.cfg.vXlArmed →
    (s.shared.get s.cfg.aXlTable[t]).toNat ≤ 4 →
    ∃ table b m, s.cfg.xlTables[(s.shared.get s.cfg.aXlTable[t]).toNat]? = some table ∧
      table[(s.shared.get s.cfg.aXlIndex[t]).toNat]? = some b ∧
      exec i s = .next { s with pc := .slot (n + 1), shared := m } ∧
      m.get (s.cfg.xlBase[t] + (s.shared.get s.cfg.aXlOffset[t]).toNat) = b ∧
      m.get s.cfg.aXlStatus[t] = s.cfg.vXlDone ∧
      ∀ a, a ≠ s.cfg.xlBase[t] + (s.shared.get s.cfg.aXlOffset[t]).toNat → a ≠ s.cfg.aXlStatus[t] →
        m.get a = s.shared.get a

/-- An idle or done translator is a no-op, the status cell included (rules R186, R190, R191); so is `XLAT.DONE`. -/
def Obligations.TranslatorIdle : Prop :=
  ∀ (s : State) (t : Fin 3) (j : Instr) (n : Fin 21), s.Quiet → s.cfg.Valid → (t, j, n) ∈ translatorSlots →
    exec (.xlatDone t) s = .next { s with pc := .slot (n + 1) } ∧
    (s.shared.get s.cfg.aXlStatus[t] ≠ s.cfg.vXlArmed → exec j s = .next { s with pc := .slot (n + 1) })

/-- A table selector above 4 while armed (rule R191(a)): refused before any write, so the status stays armed. -/
def Obligations.TranslatorTableRefused : Prop :=
  ∀ (s : State) (t : Fin 3) (j : Instr) (n : Fin 21) (i : Instr), s.Quiet → s.cfg.Valid → (t, j, n) ∈ translatorSlots →
    i = .xlatArm t ∨ i = j ∧ s.shared.get s.cfg.aXlStatus[t] = s.cfg.vXlArmed →
    4 < (s.shared.get s.cfg.aXlTable[t]).toNat →
    exec i s = .next { s with
      pc := .slot n, status := .refused (.translatorTable t (s.shared.get s.cfg.aXlTable[t])) }

/-- With a base that takes the destination out of `Shared` the write raises the address fault after the three reads, and
the status stays armed (rule R189). The configuration is then not valid: only the cells read need lie in `Shared`. That an
address above `0xFFFF` is recorded unbounded, not in rule R202's 16 bits, is the model's choice (log entry 19). -/
def Obligations.TranslatorBadBase : Prop :=
  ∀ (s : State) (t : Fin 3) (n : Fin 21) (j : Instr), s.Quiet → (t, j, n) ∈ translatorSlots →
    InShared s.cfg.aXlTable[t] → InShared s.cfg.aXlIndex[t] → InShared s.cfg.aXlOffset[t] →
    (s.shared.get s.cfg.aXlTable[t]).toNat ≤ 4 →
    ¬ InShared (s.cfg.xlBase[t] + (s.shared.get s.cfg.aXlOffset[t]).toNat) →
    exec (.xlatArm t) s = .next { s with
      pc := .slot n, status := .faulted (s.cfg.xlBase[t] + (s.shared.get s.cfg.aXlOffset[t]).toNat) }

/-- A bus access outside the mapped regions raises `AddressOutOfRange` with the address, a write to the input registers
included (rule R42); nothing else changes. That an address above `0xFFFF` is recorded unbounded, not in rule R202's 16 bits,
is the model's choice (log entry 19). -/
def Obligations.AddressOutOfRange : Prop :=
  ∀ (s : State) (a : Nat) (v : Byte), s.Quiet → ¬ InShared a →
    (¬ InInputs a → (memRead a).run s = .error .terminal { s with status := .faulted a }) ∧
    (memWrite a v).run s = .error .terminal { s with status := .faulted a }

/-! ### Reset watcher, delay check, reset -/

/-- `RSTW` (rules R195, R196): on the trigger value the reset state, with `pc` at `IDLE`; otherwise a no-op. `RST.WARM` is the
restart. -/
def Obligations.ResetWatcher : Prop :=
  ∀ s : State, s.Quiet → s.cfg.Valid →
    (s.shared.get s.cfg.aResetCmd = s.cfg.vReset → ∃ t, exec .rstw s = .next t ∧ ResetFrom s t) ∧
    (s.shared.get s.cfg.aResetCmd ≠ s.cfg.vReset → exec .rstw s = .next { s with pc := .slot 20 }) ∧
    ∃ t, exec .rstWarm s = .next t ∧ ResetFrom s t

/-- `DELAY` and `DELAY.MARK` (rule R87): any value of the marker cell gives the same end state. -/
def Obligations.DelaySlot : Prop :=
  ∀ s : State, s.Quiet → s.cfg.Valid →
    exec .delay s = .next { s with pc := .idle } ∧ exec .delayMark s = .next { s with pc := .idle }

/-- `RESET` (rules R230, R231) in every state, a terminal status and mid-tick included. Power-on (rules R7, R232): a valid
configuration gives a machine in the reset state, with any bytes in a `Shared` that is not zeroed; an invalid one is refused.
`State.reset` is the machine powered on with the reference configuration (log entry 1). -/
def Obligations.ColdReset : Prop :=
  (∀ s : State, ∃ t, exec .reset s = .next t ∧ ResetFrom s t) ∧
  (∀ (cfg : Cfg) (m : Memory), cfg.Valid → ∃ s, powerOn cfg m = .next s ∧ ResetFrom s s ∧ s.cfg = cfg ∧ s.trace = [] ∧
    (cfg.resetZeroesShared = false → s.shared = m)) ∧
  (∀ (cfg : Cfg) (m : Memory), ¬ cfg.Valid → powerOn cfg m = .refused .invalidConfiguration) ∧
  powerOn Cfg.ref [] = .next State.reset

/-- The reference configuration is valid (rule R7), holds the literals of table 4.2 (rule R5), and its creeper tables have
the mean property (rule R147). -/
def Obligations.ReferenceValid : Prop :=
  Cfg.ref.Valid ∧ Cfg.ref.D0Constants ∧ Cfg.ref.CreeperMeanExact

/-- The first tick after reset (rule R233): 22 steps from `State.reset`, the trigger and the 21 slots, end between ticks with
`A_EXTEND` at 1, every creeper's cursor at 1, one lockout drive, and the five mirrors as the only other cells that can be
nonzero. -/
def Obligations.FirstTick : Prop :=
  ∃ t, stepN 22 State.reset = .next t ∧ t.status = .running ∧ t.pc = .idle ∧ t.trace = [(.lockout, false)] ∧
    t.creepIdx = #v[1, 1, 1, 1] ∧ t.creepTable = #v[0, 0, 0, 0] ∧ t.ctrlCache = #v[0, 0, 0] ∧
    t.partialCoins = #v[0, 0] ∧ t.shared.get Cfg.ref.aExtend = 1 ∧
    t.shared.get Cfg.ref.aCabMirror = t.cabLatch ∧ (∀ b : Fin 4, t.shared.get Cfg.ref.aBankMirror[b] = t.bank[b]) ∧
    ∀ a, a ≠ Cfg.ref.aExtend → a ≠ Cfg.ref.aCabMirror → (∀ b : Fin 4, a ≠ Cfg.ref.aBankMirror[b]) → t.shared.get a = 0

/-! ### Host script -/

/-- `HW` and `HR` (rules R43, R73): the HOST's write replaces one byte of `Shared`; a read gives the byte last written and
changes no cell. What a read gave is recorded beside what the script asserts of it, and a wrong assertion changes nothing
(log entry 7). -/
def Obligations.HostBus : Prop :=
  ∀ (s : State) (a : Half) (v : Byte), InShared a.toNat →
    (∃ m, exec (.hw a v) s = .next { s with shared := m } ∧ m.get a.toNat = v ∧
      ∀ b, b ≠ a.toNat → m.get b = s.shared.get b) ∧
    exec (.hr a v) s = .next { s with hostReads := s.hostReads ++ [⟨a, s.shared.get a.toNat, v⟩] }

/-- `IN` and `CAB` (rule R73): the byte is held at its input until changed. A bus read of an input register by the HOST gives
the byte held there, and changes no cell (rule R43). -/
def Obligations.InputDevice : Prop :=
  ∀ (s : State) (b : Fin 4) (v w : Byte),
    exec (.inp b v) s = .next { s with heldBank := s.heldBank.set b (some v) } ∧
    exec (.cab v) s = .next { s with heldCab := some v } ∧
    ∃ x d, exec (.hr (BitVec.ofNat 16 b.val) w) s = .next { s with
        draws := d, hostReads := s.hostReads ++ [⟨BitVec.ofNat 16 b.val, x, w⟩] } ∧
      ∀ y, s.heldBank[b] = some y → x = y ∧ d = s.draws

/-- `HW` outside `Shared`, and `HR` outside both regions, stop with the model's own fault (log entry 9): rule R73 gives such
lines no meaning. -/
def Obligations.HostAddressFault : Prop :=
  ∀ (s : State) (a : Half) (v : Byte), ¬ InShared a.toNat →
    exec (.hw a v) s = .fault (.hostAddressOutOfRange a.toNat) ∧
    (¬ InInputs a.toNat → exec (.hr a v) s = .fault (.hostAddressOutOfRange a.toNat))

/-- `TICK` (rules R207, R211): it starts a tick when the CORE runs and is idle, changing `pc` only, and is ignored in a
terminal status. -/
def Obligations.TickTrigger : Prop :=
  ∀ s : State,
    (s.status = .running → s.pc = .idle → exec .tick s = .next { s with pc := .slot 0 }) ∧
    (s.status ≠ .running → exec .tick s = .next s)

/-! ### The whole machine -/

/-- The invariant holds after reset, and in every machine that power-on gives with a canonical memory. -/
def Obligations.InvAtReset : Prop :=
  State.reset.Inv ∧ ∀ (cfg : Cfg) (m : Memory) (s : State), m.wf = true → powerOn cfg m = .next s → s.Inv

/-- Every step keeps the invariant, HOST accesses and cold resets inside a tick included. -/
def Obligations.InvKept : Prop := ∀ s t : State, s.Inv → step s = .next t → t.Inv

/-- A terminal status is left only by a cold reset (rule R204): whatever else the environment does, status, slot counter,
registers, ports and trace stay, and `Shared` changes only by the HOST's hand. -/
def Obligations.TerminalIsSticky : Prop :=
  ∀ s t : State, s.status ≠ .running → step s = .next t → (∀ rest, s.script ≠ 0x58 :: rest) →
    t = { s with
      shared := t.shared, script := t.script, hostReads := t.hostReads, heldBank := t.heldBank, heldCab := t.heldCab,
      draws := t.draws } ∧
    ((∀ rest, s.script ≠ 0x57 :: rest) → t.shared = s.shared)

/-- The complete list of causes of a terminal status (rules R201 to R203, R206), for a valid configuration: exactly what a
slot must have found for its step to end the CORE, and with which recorded value. -/
def Obligations.TerminalCauses : Prop :=
  ∀ (s t : State) (n : Fin 21), s.Quiet → s.cfg.Valid → s.status = .running → s.pc = .slot n → step s = .next t →
    (∀ c, t.status = .poisoned c ↔
      n.val = 4 + c.val ∧ s.shared.get s.cfg.aCtrlCmd[c] = 0 ∧ s.shared.get s.cfg.aCtrlGate[c] = s.cfg.vDiag ∧
      s.shared.get s.cfg.aCtrlOut[c] ≠ s.ctrlCache[c]) ∧
    (∀ a, t.status ≠ .faulted a) ∧
    (∀ c v, t.status = .refused (.unmappedCommand c v) ↔
      n.val = 4 + c.val ∧ v = s.shared.get s.cfg.aCtrlCmd[c] ∧ v ≠ 0 ∧ v ∉ s.cfg.mapBytes c) ∧
    (∀ k v, t.status = .refused (.creeperSelector k v) ↔
      n.val = 9 + k.val ∧ 40 < v.toNat ∧
      (v = s.creepTable[k] ∨ s.OnSentinel k ∧ v = s.shared.get s.cfg.aCreepSel[k])) ∧
    (∀ x v, t.status = .refused (.translatorTable x v) ↔
      n.val = 16 + x.val ∧ s.shared.get s.cfg.aXlStatus[x] = s.cfg.vXlArmed ∧ v = s.shared.get s.cfg.aXlTable[x] ∧
      4 < v.toNat)

/-- Only the rule a register's row names writes it (rule R10, rules R24 to R26 for the ports): a step at any slot but the
reset watcher's, HOST accesses inside the tick included, leaves every other slot's registers alone. -/
def Obligations.RegisterOwners : Prop :=
  ∀ (s t : State) (n : Fin 21), s.coldResets = [] → s.status = .running → s.pc = .slot n → n ≠ 19 → step s = .next t →
    (n ≠ 1 → t.bank = s.bank ∧ t.cabLatch = s.cabLatch) ∧
    (n ≠ 2 → t.prev = s.prev ∧ t.partialCoins = s.partialCoins) ∧
    (∀ c : Fin 3, n.val ≠ 4 + c.val → t.ctrlCache[c] = s.ctrlCache[c]) ∧
    (∀ k : Fin 4, n.val ≠ 9 + k.val → t.creepTable[k] = s.creepTable[k] ∧ t.creepIdx[k] = s.creepIdx[k]) ∧
    (n ≠ 7 → n ≠ 8 → t.pY = s.pY ∧ t.pX = s.pX ∧ t.yOverlap = s.yOverlap ∧ t.beastIdx = s.beastIdx) ∧
    (n ≠ 0 → t.irqOut = s.irqOut) ∧ (n ≠ 2 → n ≠ 3 → t.lockout = s.lockout)

/-- The cells the CORE never writes (rule R88): a slot leaves them, except by a restart that zeroes `Shared` or by a
translator whose window covers them. -/
def Obligations.HostOnlyCells : Prop :=
  ∀ (s t : State) (n : Fin 21) (a : Nat), s.Quiet → s.cfg.Valid → s.status = .running → s.pc = .slot n →
    step s = .next t → a ∈ s.cfg.hostOnlyCells → (∀ x : Fin 3, ¬ s.cfg.InWindow x a) →
    ¬ (n = 19 ∧ s.shared.get s.cfg.aResetCmd = s.cfg.vReset) → t.shared.get a = s.shared.get a

/-- The output trace (rule R26): a step only appends to it, a reset included; and at any slot but the reset watcher's the
ports hold the level last driven (rules R25, R26). -/
def Obligations.OutputTrace : Prop :=
  ∀ s t : State, step s = .next t →
    ∃ d, t.trace = s.trace ++ d ∧
      (s.coldResets = [] → s.status = .running → s.pc ≠ .idle → s.pc ≠ .slot 19 →
        t.irqOut = (lastLevel .irqOut d).getD s.irqOut ∧ t.lockout = (lastLevel .lockout d).getD s.lockout)

/-- A tick always runs to its end (rule R81): from any slot, whatever the cells, the configuration and the environment, at
most the slots that are left lead to `IDLE` or to a terminal status. That one step is one slot is the model's choice (log
entry 3). -/
def Obligations.TickEnds : Prop :=
  ∀ (s : State) (n : Fin 21), s.status = .running → s.pc = .slot n →
    ∃ k t, k ≤ 21 - n.val ∧ stepN k s = .next t ∧ (t.pc = .idle ∨ t.status ≠ .running)

/-- Tick atomicity (rule R51): with `HOST_INTERLEAVE` false no step depends on, or uses up, what the HOST would write inside
a tick. -/
def Obligations.TickAtomicity : Prop :=
  ∀ (s : State) (race : List (List HostWrite)), s.cfg.hostInterleave = false →
    step { s with hostRace := race } = mapNext (fun t => { t with hostRace := race }) (step s)

/-- A command written between the read of the command cell and the zeroing write is destroyed unexecuted (rule R131): for
every command of every controller, a HOST write before any access after the read, the zeroing included, leaves the cell 0
and all else as the first command alone leaves it. -/
def Obligations.CommandLostInRace : Prop :=
  ∀ (s : State) (place : Nat) (v : Byte), s.cfg.Valid → 1 ≤ place →
    (∀ (k : Fin 2) (i : Instr) (n : Fin 21) (op : CreditOp), (k.castSucc, i, n) ∈ controllerSlots →
      s.CommandRaced k.castSucc place v → place ≤ s.cfg.accessesBeforeZeroing op.readsOperand →
      s.shared.get s.cfg.aCtrlCmd[k.castSucc] = s.cfg.creditMap[k].byteOf op →
      ∃ r, s.CreditResult k r op ∧ CompletedWith { s with hostRace := [] } k.castSucc n r (exec i s)) ∧
    ∀ op : LevelOp, s.CommandRaced 2 place v → place ≤ s.cfg.accessesBeforeZeroing op.readsOperand →
      s.shared.get s.cfg.aCtrlCmd[(2 : Fin 3)] = s.cfg.levelMap.byteOf op →
      CompletedWith { s with hostRace := [] } 2 6 (s.levelResult op) (exec .ctrl2 s)

/-- A cold reset in the middle of a tick (rule R231). Due before a slot's first access, it discards the slot. Due later, it
either falls behind the slot, which is then as if none were due, or cuts the slot short, and the drives already made stay
made. So do the writes already made, visible where a reset does not zero `Shared` (rule R232): where no race is on, the slot's
cells hold what the whole slot leaves, up to a point of its writes, and the other bytes stay. Certain places by name: the
result of a command whose cell is not zeroed any more, the byte of a translator that is not marked done any more; and the
interrupt pulse is cut off at any of its drives. In every case the rest of the tick is discarded. When resets come is the environment's business (log entry 6). -/
def Obligations.ColdResetInTick : Prop :=
  ∀ (s : State) (later : List Nat), s.status = .running →
    (∀ n, s.pc = .slot n → s.coldResets = 0 :: later → CutShort s later s.shared [] (step s)) ∧
    (∀ n j t, s.pc = .slot n → s.coldResets = j :: later → step { s with coldResets := [] } = .next t →
      (∃ k, k ≤ j ∧ step s = .next { t with coldResets := (j - k) :: later }) ∨
      ∃ m d x r, CutShort { s with draws := x, hostRace := r } later m d (step s) ∧ s.trace ++ d <+: t.trace ∧
        (s.cfg.Valid → s.cfg.hostInterleave = false ∨ s.hostRace = [] → StoresCutShort s n t m)) ∧
    (s.cfg.Valid → s.cfg.hostInterleave = false ∨ s.hostRace = [] →
      (∀ j, j < 3 → s.coldResets = (1 + j) :: later → s.shared.get s.cfg.aIrqMarker = s.cfg.vIrqReady →
        CutShort s later s.shared ([(.irqOut, false), (.irqOut, true), (.irqOut, false)].take j) (exec .irq s)) ∧
      (∀ (k : Fin 2) (i : Instr) (n : Fin 21) (op : CreditOp), (k.castSucc, i, n) ∈ controllerSlots →
        s.coldResets = s.cfg.accessesBeforeZeroing op.readsOperand :: later →
        s.shared.get s.cfg.aCtrlCmd[k.castSucc] = s.cfg.creditMap[k].byteOf op →
        ∃ r m, s.CreditResult k r op ∧ CutShort s later m [] (exec i s) ∧ m.get s.cfg.aCtrlOut[k.castSucc] = r ∧
          ∀ a, a ≠ s.cfg.aCtrlOut[k.castSucc] → m.get a = s.shared.get a) ∧
      (∀ op : LevelOp, s.coldResets = s.cfg.accessesBeforeZeroing op.readsOperand :: later →
        s.shared.get s.cfg.aCtrlCmd[(2 : Fin 3)] = s.cfg.levelMap.byteOf op →
        ∃ m, CutShort s later m [] (exec .ctrl2 s) ∧ m.get s.cfg.aCtrlOut[(2 : Fin 3)] = s.levelResult op ∧
          ∀ a, a ≠ s.cfg.aCtrlOut[(2 : Fin 3)] → m.get a = s.shared.get a) ∧
      ∀ (x : Fin 3) (i : Instr) (n : Fin 21) (table : List Byte) (b : Byte), (x, i, n) ∈ translatorSlots →
        s.coldResets = 5 :: later → s.shared.get s.cfg.aXlStatus[x] = s.cfg.vXlArmed →
        s.cfg.xlTables[(s.shared.get s.cfg.aXlTable[x]).toNat]? = some table →
        table[(s.shared.get s.cfg.aXlIndex[x]).toNat]? = some b →
        ∃ m, CutShort s later m [] (exec i s) ∧
          m.get (s.cfg.xlBase[x] + (s.shared.get s.cfg.aXlOffset[x]).toNat) = b ∧
          ∀ a, a ≠ s.cfg.xlBase[x] + (s.shared.get s.cfg.aXlOffset[x]).toNat → m.get a = s.shared.get a)

/-- The liveness re-check failing (rule R159, and D21, U11: the branch is the spec's own decision). Beastie 0 collides in both
axes, and a HOST write inside the sweep, after the guard and before the re-check (places 1 to 10 of the slot's accesses),
clears the liveness. No kill is requested, by this beastie or a later one; the sweep goes on to the last beastie, and every
live one has fresh outputs. -/
def Obligations.RecheckInRace : Prop :=
  ∀ (s : State) (p : Fin 2) (i : Instr) (n : Fin 21) (v : Byte) (place : Nat), s.cfg.Valid → s.coldResets = [] →
    s.cfg.hostInterleave = true → (p, i, n) ∈ beastieSlots → s.PlayerLive p → s.OverlapsY p 0 → s.OverlapsX p 0 →
    v &&& s.cfg.liveMask = 0 → 1 ≤ place → place ≤ 10 →
    s.hostRace = List.replicate place [] ++ [[⟨BitVec.ofNat 10 (s.cfg.aPLive[p] - 0xC00), v⟩]] →
    ∃ m, exec i s = .next { s with
        pc := .slot (n + 1), pX := s.playerX p, pY := s.playerY p, yOverlap := BitVec.ofNat 8 (s.overlapsOfAll p),
        beastIdx := 6, shared := m, hostRace := [] } ∧
      FullSweepMemory s p m ∧ m.get s.cfg.aPLive[p] = v
end

