-- ==== Sys2Proof/Laws/Cells.lean ====
section
/-!
SUPPORT. The cells of rules R28 and R29 by name: where a valid configuration puts them, and that no two share an address.
-/

namespace Sys2Proof

/-- A named cell of rules R28 and R29, but for the diagnostic gates (which may coincide) and the translator windows. -/
inductive PlainCell where
  | irqMarker
  | delayMarker
  | resetCmd
  | lockCmd
  | mischiefEn
  | clkActive
  | ctrlCmd (c : Fin 3)
  | xlStatus (t : Fin 3)
  | xlTable (t : Fin 3)
  | xlIndex (t : Fin 3)
  | xlOffset (t : Fin 3)
  | creepSel (k : Fin 4)
  | cabMirror
  | phony
  | changed
  | clkHi
  | clkLo
  | clkDone
  | extend
  | bankMirror (b : Fin 4)
  | ctrlOut (c : Fin 3)
  | pLive (p : Fin 2)
  | pY (p : Fin 2)
  | pX (p : Fin 2)
  | killReq (p : Fin 2)
  | killIdx (p : Fin 2)
  | bStage (i : Fin 7)
  | bY (i : Fin 7)
  | bX (i : Fin 7)
  | oVCode (p : Fin 2) (i : Fin 7)
  | oHCode (p : Fin 2) (i : Fin 7)
  | oVDist (p : Fin 2) (i : Fin 7)
  | oHDist (p : Fin 2) (i : Fin 7)
  | creepOut (k : Fin 4)
deriving DecidableEq, Repr

/-- The address of a named cell. -/
def Cfg.addr (c : Cfg) : PlainCell → Nat
  | .irqMarker => c.aIrqMarker
  | .delayMarker => c.aDelayMarker
  | .resetCmd => c.aResetCmd
  | .lockCmd => c.aLockCmd
  | .mischiefEn => c.aMischiefEn
  | .clkActive => c.aClkActive
  | .ctrlCmd k => c.aCtrlCmd[k]
  | .xlStatus t => c.aXlStatus[t]
  | .xlTable t => c.aXlTable[t]
  | .xlIndex t => c.aXlIndex[t]
  | .xlOffset t => c.aXlOffset[t]
  | .creepSel k => c.aCreepSel[k]
  | .cabMirror => c.aCabMirror
  | .phony => c.aPhony
  | .changed => c.aChanged
  | .clkHi => c.aClkHi
  | .clkLo => c.aClkLo
  | .clkDone => c.aClkDone
  | .extend => c.aExtend
  | .bankMirror b => c.aBankMirror[b]
  | .ctrlOut k => c.aCtrlOut[k]
  | .pLive p => c.aPLive[p]
  | .pY p => c.aPY[p]
  | .pX p => c.aPX[p]
  | .killReq p => c.aKillReq[p]
  | .killIdx p => c.aKillIdx[p]
  | .bStage i => c.aBStage[i]
  | .bY i => c.aBY[i]
  | .bX i => c.aBX[i]
  | .oVCode p i => c.aOVCode[p][i]
  | .oHCode p i => c.aOHCode[p][i]
  | .oVDist p i => c.aOVDist[p][i]
  | .oHDist p i => c.aOHDist[p][i]
  | .creepOut k => c.aCreepOut[k]

/-- The control cells among them (rule R28). -/
def PlainCell.isControl : PlainCell → Bool
  | .irqMarker | .delayMarker | .resetCmd | .lockCmd | .mischiefEn | .clkActive | .ctrlCmd _ | .xlStatus _ | .xlTable _
  | .xlIndex _ | .xlOffset _ | .creepSel _ => true
  | .cabMirror | .phony | .changed | .clkHi | .clkLo | .clkDone | .extend | .bankMirror _ | .ctrlOut _ | .pLive _
  | .pY _ | .pX _ | .killReq _ | .killIdx _ | .bStage _ | .bY _ | .bX _ | .oVCode _ _ | .oHCode _ _ | .oVDist _ _
  | .oHDist _ _ | .creepOut _ => false

theorem vector_toList {α : Type} {n : Nat} (v : Vector α n) : v.toList = (List.finRange n).map fun i => v[i] := by
  apply List.ext_getElem <;> simp

/-- The named cells in the order of `Cfg.controlCells`. -/
def PlainCell.controls : List PlainCell :=
  [.irqMarker, .delayMarker, .resetCmd, .lockCmd, .mischiefEn, .clkActive]
    ++ (List.finRange 3).map .ctrlCmd ++ (List.finRange 3).map .xlStatus ++ (List.finRange 3).map .xlTable
    ++ (List.finRange 3).map .xlIndex ++ (List.finRange 3).map .xlOffset ++ (List.finRange 4).map .creepSel

/-- The output cells of player `p`'s relay. -/
def PlainCell.beastOuts (p : Fin 2) : List PlainCell :=
  (List.finRange 7).map (.oVCode p) ++ (List.finRange 7).map (.oHCode p) ++ (List.finRange 7).map (.oVDist p)
    ++ (List.finRange 7).map (.oHDist p)

/-- The named cells in the order of `Cfg.dataCells`. -/
def PlainCell.datas : List PlainCell :=
  [.cabMirror, .phony, .changed, .clkHi, .clkLo, .clkDone, .extend]
    ++ (List.finRange 4).map .bankMirror ++ (List.finRange 3).map .ctrlOut ++ (List.finRange 2).map .pLive
    ++ (List.finRange 2).map .pY ++ (List.finRange 2).map .pX ++ (List.finRange 2).map .killReq
    ++ (List.finRange 2).map .killIdx ++ (List.finRange 7).map .bStage ++ (List.finRange 7).map .bY
    ++ (List.finRange 7).map .bX ++ PlainCell.beastOuts 0 ++ PlainCell.beastOuts 1
    ++ (List.finRange 4).map .creepOut

theorem Cfg.controlCells_eq (c : Cfg) : c.controlCells = PlainCell.controls.map c.addr := by
  simp only [Cfg.controlCells, PlainCell.controls, List.map_append, List.map_cons, List.map_nil, List.map_map, vector_toList]
  rfl

theorem Cfg.beastOutCells_eq (c : Cfg) (p : Fin 2) : c.beastOutCells p = (PlainCell.beastOuts p).map c.addr := by
  simp only [Cfg.beastOutCells, PlainCell.beastOuts, List.map_append, List.map_map, vector_toList]
  rfl

theorem Cfg.dataCells_eq (c : Cfg) : c.dataCells = PlainCell.datas.map c.addr := by
  simp only [Cfg.dataCells, Cfg.beastOutCells_eq, PlainCell.datas, List.map_append, List.map_cons, List.map_nil,
    List.map_map, vector_toList]
  rfl

theorem PlainCell.mem_controls (x : PlainCell) : x ∈ PlainCell.controls ↔ x.isControl = true := by
  cases x <;> simp [PlainCell.controls, PlainCell.isControl]

theorem PlainCell.mem_beastOuts (p : Fin 2) (x : PlainCell) :
    x ∈ PlainCell.beastOuts p ↔ ∃ i, x = .oVCode p i ∨ x = .oHCode p i ∨ x = .oVDist p i ∨ x = .oHDist p i := by
  cases x <;> simp [PlainCell.beastOuts] <;> tauto

theorem PlainCell.mem_datas (x : PlainCell) : x ∈ PlainCell.datas ↔ x.isControl = false := by
  have h01 : ∀ p : Fin 2, 0 = p ∨ 1 = p := by decide
  cases x <;> simp [PlainCell.datas, PlainCell.isControl, PlainCell.beastOuts]
  all_goals exact h01 _

theorem Cfg.plainCells_eq (c : Cfg) : c.plainCells = (PlainCell.controls ++ PlainCell.datas).map c.addr := by
  rw [Cfg.plainCells, Cfg.controlCells_eq, Cfg.dataCells_eq, List.map_append]

theorem PlainCell.mem_all (x : PlainCell) : x ∈ PlainCell.controls ++ PlainCell.datas := by
  rw [List.mem_append, PlainCell.mem_controls, PlainCell.mem_datas]
  cases x.isControl <;> simp

theorem Cfg.addr_mem (c : Cfg) (x : PlainCell) : c.addr x ∈ c.plainCells := by
  rw [Cfg.plainCells_eq]; exact List.mem_map_of_mem x.mem_all

/-- A valid configuration puts every named cell into `Shared` (rule R7). -/
theorem Cfg.Valid.inShared_addr {c : Cfg} (h : c.Valid) (x : PlainCell) : InShared (c.addr x) :=
  h.inShared.1 _ (c.addr_mem x)

/-- No two named cells share an address (rule R31). -/
theorem Cfg.Valid.addr_inj {c : Cfg} (h : c.Valid) {x y : PlainCell} (e : c.addr x = c.addr y) : x = y := by
  have hn := h.distinct.1
  rw [Cfg.plainCells_eq] at hn
  exact List.inj_on_of_nodup_map hn x.mem_all y.mem_all e

@[simp] theorem Cfg.Valid.addr_eq {c : Cfg} (h : c.Valid) (x y : PlainCell) : c.addr x = c.addr y ↔ x = y :=
  ⟨h.addr_inj, fun e => e ▸ rfl⟩

theorem Cfg.gate_mem (c : Cfg) (k : Fin 3) : c.aCtrlGate[k] ∈ c.gateCells := by
  rw [Cfg.gateCells, vector_toList]; exact List.mem_map_of_mem (List.mem_finRange k)

/-- A valid configuration puts every diagnostic gate into `Shared` (rule R7). -/
theorem Cfg.Valid.inShared_gate {c : Cfg} (h : c.Valid) (k : Fin 3) : InShared c.aCtrlGate[k] :=
  h.inShared.2.1 _ (c.gate_mem k)

/-- A gate is no other named cell (rule R31). -/
theorem Cfg.Valid.gate_ne {c : Cfg} (h : c.Valid) (k : Fin 3) (x : PlainCell) : c.aCtrlGate[k] ≠ c.addr x :=
  fun e => h.distinct.2.1 _ (c.gate_mem k) (e ▸ c.addr_mem x)

/-- A translator's destination lies in `Shared` (rules R7, R189). -/
theorem Cfg.Valid.inShared_window {c : Cfg} (h : c.Valid) (t : Fin 3) (o : BitVec 8) : InShared (c.xlBase[t] + o.toNat) := by
  have h1 := h.inShared.2.2 t
  have h2 := o.isLt
  exact ⟨by omega, by omega⟩

/-- A translator's destination is no control cell (rule R31). -/
theorem Cfg.Valid.window_ne {c : Cfg} (h : c.Valid) (t : Fin 3) (o : BitVec 8) (x : PlainCell)
    (hx : x.isControl = true) : c.xlBase[t] + o.toNat ≠ c.addr x := by
  intro e
  have hm : c.addr x ∈ c.controlCells ++ c.gateCells := by
    rw [Cfg.controlCells_eq]
    exact List.mem_append_left _ (List.mem_map_of_mem ((PlainCell.mem_controls x).mpr hx))
  have h2 := o.isLt
  exact h.distinct.2.2.1 t _ hm ⟨by omega, by omega⟩

end Sys2Proof
end

