-- ==== Sys2Proof/Laws/Memory.lean ====
section
/-!
SUPPORT. The laws of `Shared`: a read after a write, and the canonical form, which every memory operation keeps.
-/

namespace Sys2Proof.Machine

@[simp] theorem Memory.unlisted_eq : Memory.unlisted = 0 := rfl

@[simp] theorem Memory.get_nil (a : Nat) : Memory.get [] a = 0 := rfl

@[simp] theorem Memory.get_erase (m : Memory) (a b : Nat) :
    (m.erase a).get b = if b = a then 0 else m.get b := by
  induction m with
  | nil => simp [Memory.erase, Memory.get, Memory.unlisted]
  | cons c rest ih =>
    obtain ⟨k, w⟩ := c
    by_cases hk : k = a
    · subst hk
      by_cases hb : b = k
      · subst hb; simpa [Memory.erase] using ih
      · simp [Memory.erase, Memory.get, ih, hb, Ne.symm hb]
    · by_cases hb : b = k
      · subst hb; simp [Memory.erase, Memory.get, hk]
      · simp [Memory.erase, Memory.get, hk, Ne.symm hb, ih]

theorem Memory.get_insert (m : Memory) (a b : Nat) (v : Byte) (h : m.get a = 0) :
    (m.insert a v).get b = if b = a then v else m.get b := by
  induction m with
  | nil =>
    by_cases hb : b = a
    · subst hb; simp [Memory.insert, Memory.get]
    · simp [Memory.insert, Memory.get, hb, Ne.symm hb]
  | cons c rest ih =>
    obtain ⟨k, w⟩ := c
    simp only [Memory.insert]
    split
    · rename_i hlt
      have hka : k ≠ a := by omega
      simp only [Memory.get, hka, if_false] at h ⊢
      rw [ih h]
      by_cases hb : b = a
      · subst hb; simp [hka]
      · simp [hb]
    · by_cases hb : b = a
      · subst hb; simp [Memory.get]
      · simp [Memory.get, hb, Ne.symm hb]

/-- A read gives the byte last written to its address, and every other address is left alone (rule R43). -/
@[simp] theorem Memory.get_put (m : Memory) (a b : Nat) (v : Byte) :
    (m.put a v).get b = if b = a then v else m.get b := by
  unfold Memory.put
  split
  · rename_i hv; simp [hv, Memory.unlisted]
  · rw [Memory.get_insert _ _ _ _ (by simp)]
    by_cases hb : b = a <;> simp [hb]

/-! ### The canonical form -/

theorem Memory.wf_cons (a : Nat) (v : Byte) (rest : Memory) :
    Memory.wf ((a, v) :: rest) = true ↔
      InShared a ∧ v ≠ 0 ∧ (∀ c ∈ rest, a < c.1) ∧ Memory.wf rest = true := by
  simp only [Memory.wf, Memory.unlisted_eq, Bool.and_eq_true, decide_eq_true_iff, bne_iff_ne, List.all_eq_true, and_assoc]

theorem Memory.mem_erase (m : Memory) (a : Nat) (c : Host.Cell) (h : c ∈ m.erase a) : c ∈ m := by
  induction m with
  | nil => simp [Memory.erase] at h
  | cons d rest ih =>
    obtain ⟨k, w⟩ := d
    simp only [Memory.erase] at h
    split at h
    · exact List.mem_cons_of_mem _ (ih h)
    · rcases List.mem_cons.mp h with h | h
      · exact h ▸ List.mem_cons_self
      · exact List.mem_cons_of_mem _ (ih h)

theorem Memory.ne_of_mem_erase (m : Memory) (a : Nat) (c : Host.Cell) (h : c ∈ m.erase a) : c.1 ≠ a := by
  induction m with
  | nil => simp [Memory.erase] at h
  | cons d rest ih =>
    obtain ⟨k, w⟩ := d
    simp only [Memory.erase] at h
    split at h
    · exact ih h
    · rcases List.mem_cons.mp h with h | h
      · subst h; assumption
      · exact ih h

theorem Memory.wf_erase (m : Memory) (a : Nat) (h : m.wf = true) : (m.erase a).wf = true := by
  induction m with
  | nil => rfl
  | cons d rest ih =>
    obtain ⟨k, w⟩ := d
    obtain ⟨h1, h2, h3, h4⟩ := (Memory.wf_cons k w rest).mp h
    simp only [Memory.erase]
    split
    · exact ih h4
    · exact (Memory.wf_cons _ _ _).mpr ⟨h1, h2, fun c hc => h3 c (Memory.mem_erase _ _ _ hc), ih h4⟩

theorem Memory.mem_insert (m : Memory) (a : Nat) (v : Byte) (c : Host.Cell) (h : c ∈ m.insert a v) :
    c = (a, v) ∨ c ∈ m := by
  induction m with
  | nil => simpa [Memory.insert] using h
  | cons d rest ih =>
    obtain ⟨k, w⟩ := d
    simp only [Memory.insert] at h
    split at h
    · rcases List.mem_cons.mp h with h | h
      · exact .inr (h ▸ List.mem_cons_self)
      · exact (ih h).imp_right (List.mem_cons_of_mem _)
    · exact (List.mem_cons.mp h)

theorem Memory.wf_insert (m : Memory) (a : Nat) (v : Byte) (ha : InShared a) (hv : v ≠ 0)
    (hm : ∀ c ∈ m, c.1 ≠ a) (h : m.wf = true) : (m.insert a v).wf = true := by
  induction m with
  | nil => exact (Memory.wf_cons _ _ _).mpr ⟨ha, hv, by simp, rfl⟩
  | cons d rest ih =>
    obtain ⟨k, w⟩ := d
    obtain ⟨h1, h2, h3, h4⟩ := (Memory.wf_cons k w rest).mp h
    have hka : k ≠ a := hm (k, w) List.mem_cons_self
    simp only [Memory.insert]
    split
    · refine (Memory.wf_cons _ _ _).mpr ⟨h1, h2, fun c hc => ?_, ih (fun c hc => hm c (List.mem_cons_of_mem _ hc)) h4⟩
      rcases Memory.mem_insert _ _ _ _ hc with rfl | hc
      · assumption
      · exact h3 c hc
    · refine (Memory.wf_cons _ _ _).mpr ⟨ha, hv, fun c hc => ?_, h⟩
      rcases List.mem_cons.mp hc with rfl | hc
      · show a < k; omega
      · have := h3 c hc; omega

/-- A write inside `Shared` keeps the canonical form. -/
theorem Memory.wf_put (m : Memory) (a : Nat) (v : Byte) (ha : InShared a) (h : m.wf = true) : (m.put a v).wf = true := by
  unfold Memory.put
  split
  · exact Memory.wf_erase m a h
  · rename_i hv
    exact Memory.wf_insert _ a v ha hv (fun c hc => Memory.ne_of_mem_erase _ _ _ hc) (Memory.wf_erase m a h)

theorem HostWrite.addr_inShared (w : HostWrite) : InShared w.addr := by
  have := w.off.isLt
  simp only [HostWrite.addr]; omega

/-- A group of HOST writes keeps the canonical form. -/
theorem Memory.wf_hostWrites (ws : List HostWrite) (m : Memory) (h : m.wf = true) : (m.hostWrites ws).wf = true := by
  induction ws generalizing m with
  | nil => exact h
  | cons w rest ih => exact ih _ (Memory.wf_put m w.addr w.val w.addr_inShared h)

/-- An address that canonical memory does not list reads as 0. -/
theorem Memory.get_of_not_mem (m : Memory) (a : Nat) (h : ∀ c ∈ m, c.1 ≠ a) : m.get a = 0 := by
  induction m with
  | nil => rfl
  | cons d rest ih =>
    obtain ⟨k, w⟩ := d
    have hk : k ≠ a := h (k, w) List.mem_cons_self
    simpa [Memory.get, hk] using ih fun c hc => h c (List.mem_cons_of_mem _ hc)

/-- Canonical memories that read alike are the same list. -/
theorem Memory.eq_of_get (m n : Memory) (hm : m.wf = true) (hn : n.wf = true) (h : ∀ a, m.get a = n.get a) : m = n := by
  induction m generalizing n with
  | nil =>
    cases n with
    | nil => rfl
    | cons d rest =>
      obtain ⟨k, w⟩ := d
      obtain ⟨_, h2, _, _⟩ := (Memory.wf_cons k w rest).mp hn
      exact absurd (by simpa [Memory.get] using (h k).symm) h2
  | cons c rest ih =>
    obtain ⟨k, w⟩ := c
    obtain ⟨_, hw, hlt, hrest⟩ := (Memory.wf_cons k w rest).mp hm
    cases n with
    | nil => exact absurd (by simpa [Memory.get] using h k) hw
    | cons d rest' =>
      obtain ⟨k', w'⟩ := d
      obtain ⟨_, hw', hlt', hrest'⟩ := (Memory.wf_cons k' w' rest').mp hn
      have hk : k = k' := by
        rcases Nat.lt_trichotomy k k' with hl | he | hl
        · have := h k
          rw [Memory.get, if_pos rfl, Memory.get, if_neg (by omega),
            Memory.get_of_not_mem rest' k (fun c hc => by have := hlt' c hc; omega)] at this
          exact absurd this hw
        · exact he
        · have := h k'
          rw [Memory.get, if_neg (by omega), Memory.get, if_pos rfl,
            Memory.get_of_not_mem rest k' (fun c hc => by have := hlt c hc; omega)] at this
          exact absurd this.symm hw'
      subst hk
      have hww : w = w' := by simpa [Memory.get] using h k
      subst hww
      refine congrArg _ (ih rest' hrest hrest' fun a => ?_)
      by_cases ha : a = k
      · subst ha
        rw [Memory.get_of_not_mem rest a (fun c hc => by have := hlt c hc; omega),
          Memory.get_of_not_mem rest' a (fun c hc => by have := hlt' c hc; omega)]
      · simpa [Memory.get, Ne.symm ha] using h a

end Sys2Proof.Machine
end

