-- ==== Sys2Proof/Laws/Operands.lean ====
section
/-!
SUPPORT. The machine's operand forms are the statements' words for them: a signal's bit (rule R101) and a line's price
(rule R103).
-/

namespace Sys2Proof.Machine

theorem sig_eq_frameBit (s : State) (g : Signal) : s.sig g = s.frameBit g.idx := by
  unfold State.sig State.frameBit State.sourceByte BitVec.getLsbD
  rw [Nat.testBit_eq_decide_div_mod_eq]
  rfl

theorem priceOf_eq_linePrice (s : State) (l : Fin 2) : s.priceOf l = s.linePrice l := by
  unfold State.priceOf State.linePrice State.priceIndex
  simp only [BitVec.extractLsb'_toNat, Nat.shiftRight_eq_div_pow]

end Sys2Proof.Machine
end

