-- ==== Sys2Proof/Laws/State.lean ====
section
/-!
SUPPORT. One lemma per field for each named state update, so that no proof unfolds a record update.
-/

namespace Sys2Proof.Machine

/-! ### `State.restart` (rule R230) -/

@[simp] theorem State.restart_cfg (s : State) : s.restart.cfg = s.cfg := rfl
@[simp] theorem State.restart_bank (s : State) : s.restart.bank = #v[0, 0, 0, 0] := rfl
@[simp] theorem State.restart_cabLatch (s : State) : s.restart.cabLatch = 0 := rfl
@[simp] theorem State.restart_prev (s : State) : s.restart.prev = #v[false, false, false] := rfl
@[simp] theorem State.restart_partialCoins (s : State) : s.restart.partialCoins = #v[0, 0] := rfl
@[simp] theorem State.restart_ctrlCache (s : State) : s.restart.ctrlCache = #v[0, 0, 0] := rfl
@[simp] theorem State.restart_creepTable (s : State) : s.restart.creepTable = #v[0, 0, 0, 0] := rfl
@[simp] theorem State.restart_creepIdx (s : State) : s.restart.creepIdx = #v[0, 0, 0, 0] := rfl
@[simp] theorem State.restart_pY (s : State) : s.restart.pY = 0 := rfl
@[simp] theorem State.restart_pX (s : State) : s.restart.pX = 0 := rfl
@[simp] theorem State.restart_yOverlap (s : State) : s.restart.yOverlap = 0 := rfl
@[simp] theorem State.restart_beastIdx (s : State) : s.restart.beastIdx = 0 := rfl
@[simp] theorem State.restart_status (s : State) : s.restart.status = .running := rfl
@[simp] theorem State.restart_pc (s : State) : s.restart.pc = .idle := rfl
@[simp] theorem State.restart_irqOut (s : State) : s.restart.irqOut = false := rfl
@[simp] theorem State.restart_lockout (s : State) : s.restart.lockout = false := rfl
@[simp] theorem State.restart_trace (s : State) : s.restart.trace = s.trace := rfl
@[simp] theorem State.restart_shared (s : State) : s.restart.shared = if s.cfg.resetZeroesShared then [] else s.shared := rfl
@[simp] theorem State.restart_heldBank (s : State) : s.restart.heldBank = s.heldBank := rfl
@[simp] theorem State.restart_heldCab (s : State) : s.restart.heldCab = s.heldCab := rfl
@[simp] theorem State.restart_draws (s : State) : s.restart.draws = s.draws := rfl
@[simp] theorem State.restart_script (s : State) : s.restart.script = s.script := rfl
@[simp] theorem State.restart_hostReads (s : State) : s.restart.hostReads = s.hostReads := rfl
@[simp] theorem State.restart_hostRace (s : State) : s.restart.hostRace = s.hostRace := rfl
@[simp] theorem State.restart_coldResets (s : State) : s.restart.coldResets = s.coldResets := rfl

/-! ### `State.drive` (rules R25, R26) -/

@[simp] theorem State.drive_cfg (s : State) (p : Port) (l : Bool) : (s.drive p l).cfg = s.cfg := by cases p <;> rfl
@[simp] theorem State.drive_bank (s : State) (p : Port) (l : Bool) : (s.drive p l).bank = s.bank := by cases p <;> rfl
@[simp] theorem State.drive_cabLatch (s : State) (p : Port) (l : Bool) : (s.drive p l).cabLatch = s.cabLatch := by cases p <;> rfl
@[simp] theorem State.drive_prev (s : State) (p : Port) (l : Bool) : (s.drive p l).prev = s.prev := by cases p <;> rfl
@[simp] theorem State.drive_partialCoins (s : State) (p : Port) (l : Bool) : (s.drive p l).partialCoins = s.partialCoins := by cases p <;> rfl
@[simp] theorem State.drive_ctrlCache (s : State) (p : Port) (l : Bool) : (s.drive p l).ctrlCache = s.ctrlCache := by cases p <;> rfl
@[simp] theorem State.drive_creepTable (s : State) (p : Port) (l : Bool) : (s.drive p l).creepTable = s.creepTable := by cases p <;> rfl
@[simp] theorem State.drive_creepIdx (s : State) (p : Port) (l : Bool) : (s.drive p l).creepIdx = s.creepIdx := by cases p <;> rfl
@[simp] theorem State.drive_pY (s : State) (p : Port) (l : Bool) : (s.drive p l).pY = s.pY := by cases p <;> rfl
@[simp] theorem State.drive_pX (s : State) (p : Port) (l : Bool) : (s.drive p l).pX = s.pX := by cases p <;> rfl
@[simp] theorem State.drive_yOverlap (s : State) (p : Port) (l : Bool) : (s.drive p l).yOverlap = s.yOverlap := by cases p <;> rfl
@[simp] theorem State.drive_beastIdx (s : State) (p : Port) (l : Bool) : (s.drive p l).beastIdx = s.beastIdx := by cases p <;> rfl
@[simp] theorem State.drive_status (s : State) (p : Port) (l : Bool) : (s.drive p l).status = s.status := by cases p <;> rfl
@[simp] theorem State.drive_pc (s : State) (p : Port) (l : Bool) : (s.drive p l).pc = s.pc := by cases p <;> rfl
@[simp] theorem State.drive_irqOut (s : State) (p : Port) (l : Bool) :
    (s.drive p l).irqOut = if p = .irqOut then l else s.irqOut := by cases p <;> rfl
@[simp] theorem State.drive_lockout (s : State) (p : Port) (l : Bool) :
    (s.drive p l).lockout = if p = .lockout then l else s.lockout := by cases p <;> rfl
@[simp] theorem State.drive_trace (s : State) (p : Port) (l : Bool) :
    (s.drive p l).trace = s.trace ++ [(p, l)] := by cases p <;> rfl
@[simp] theorem State.drive_shared (s : State) (p : Port) (l : Bool) : (s.drive p l).shared = s.shared := by cases p <;> rfl
@[simp] theorem State.drive_heldBank (s : State) (p : Port) (l : Bool) : (s.drive p l).heldBank = s.heldBank := by cases p <;> rfl
@[simp] theorem State.drive_heldCab (s : State) (p : Port) (l : Bool) : (s.drive p l).heldCab = s.heldCab := by cases p <;> rfl
@[simp] theorem State.drive_draws (s : State) (p : Port) (l : Bool) : (s.drive p l).draws = s.draws := by cases p <;> rfl
@[simp] theorem State.drive_script (s : State) (p : Port) (l : Bool) : (s.drive p l).script = s.script := by cases p <;> rfl
@[simp] theorem State.drive_hostReads (s : State) (p : Port) (l : Bool) : (s.drive p l).hostReads = s.hostReads := by cases p <;> rfl
@[simp] theorem State.drive_hostRace (s : State) (p : Port) (l : Bool) : (s.drive p l).hostRace = s.hostRace := by cases p <;> rfl
@[simp] theorem State.drive_coldResets (s : State) (p : Port) (l : Bool) : (s.drive p l).coldResets = s.coldResets := by cases p <;> rfl

/-! ### The state after an input sample (rule R32) -/

@[simp] theorem State.sampleBank_cfg (s : State) (b : Fin 4) : (s.sampleBank b).2.cfg = s.cfg := by
  unfold State.sampleBank; split <;> rfl
@[simp] theorem State.sampleBank_bank (s : State) (b : Fin 4) : (s.sampleBank b).2.bank = s.bank := by
  unfold State.sampleBank; split <;> rfl
@[simp] theorem State.sampleBank_cabLatch (s : State) (b : Fin 4) : (s.sampleBank b).2.cabLatch = s.cabLatch := by
  unfold State.sampleBank; split <;> rfl
@[simp] theorem State.sampleBank_prev (s : State) (b : Fin 4) : (s.sampleBank b).2.prev = s.prev := by
  unfold State.sampleBank; split <;> rfl
@[simp] theorem State.sampleBank_partialCoins (s : State) (b : Fin 4) : (s.sampleBank b).2.partialCoins = s.partialCoins := by
  unfold State.sampleBank; split <;> rfl
@[simp] theorem State.sampleBank_ctrlCache (s : State) (b : Fin 4) : (s.sampleBank b).2.ctrlCache = s.ctrlCache := by
  unfold State.sampleBank; split <;> rfl
@[simp] theorem State.sampleBank_creepTable (s : State) (b : Fin 4) : (s.sampleBank b).2.creepTable = s.creepTable := by
  unfold State.sampleBank; split <;> rfl
@[simp] theorem State.sampleBank_creepIdx (s : State) (b : Fin 4) : (s.sampleBank b).2.creepIdx = s.creepIdx := by
  unfold State.sampleBank; split <;> rfl
@[simp] theorem State.sampleBank_pY (s : State) (b : Fin 4) : (s.sampleBank b).2.pY = s.pY := by
  unfold State.sampleBank; split <;> rfl
@[simp] theorem State.sampleBank_pX (s : State) (b : Fin 4) : (s.sampleBank b).2.pX = s.pX := by
  unfold State.sampleBank; split <;> rfl
@[simp] theorem State.sampleBank_yOverlap (s : State) (b : Fin 4) : (s.sampleBank b).2.yOverlap = s.yOverlap := by
  unfold State.sampleBank; split <;> rfl
@[simp] theorem State.sampleBank_beastIdx (s : State) (b : Fin 4) : (s.sampleBank b).2.beastIdx = s.beastIdx := by
  unfold State.sampleBank; split <;> rfl
@[simp] theorem State.sampleBank_status (s : State) (b : Fin 4) : (s.sampleBank b).2.status = s.status := by
  unfold State.sampleBank; split <;> rfl
@[simp] theorem State.sampleBank_pc (s : State) (b : Fin 4) : (s.sampleBank b).2.pc = s.pc := by
  unfold State.sampleBank; split <;> rfl
@[simp] theorem State.sampleBank_irqOut (s : State) (b : Fin 4) : (s.sampleBank b).2.irqOut = s.irqOut := by
  unfold State.sampleBank; split <;> rfl
@[simp] theorem State.sampleBank_lockout (s : State) (b : Fin 4) : (s.sampleBank b).2.lockout = s.lockout := by
  unfold State.sampleBank; split <;> rfl
@[simp] theorem State.sampleBank_trace (s : State) (b : Fin 4) : (s.sampleBank b).2.trace = s.trace := by
  unfold State.sampleBank; split <;> rfl
@[simp] theorem State.sampleBank_shared (s : State) (b : Fin 4) : (s.sampleBank b).2.shared = s.shared := by
  unfold State.sampleBank; split <;> rfl
@[simp] theorem State.sampleBank_heldBank (s : State) (b : Fin 4) : (s.sampleBank b).2.heldBank = s.heldBank := by
  unfold State.sampleBank; split <;> rfl
@[simp] theorem State.sampleBank_heldCab (s : State) (b : Fin 4) : (s.sampleBank b).2.heldCab = s.heldCab := by
  unfold State.sampleBank; split <;> rfl
@[simp] theorem State.sampleBank_script (s : State) (b : Fin 4) : (s.sampleBank b).2.script = s.script := by
  unfold State.sampleBank; split <;> rfl
@[simp] theorem State.sampleBank_hostReads (s : State) (b : Fin 4) : (s.sampleBank b).2.hostReads = s.hostReads := by
  unfold State.sampleBank; split <;> rfl
@[simp] theorem State.sampleBank_hostRace (s : State) (b : Fin 4) : (s.sampleBank b).2.hostRace = s.hostRace := by
  unfold State.sampleBank; split <;> rfl
@[simp] theorem State.sampleBank_coldResets (s : State) (b : Fin 4) : (s.sampleBank b).2.coldResets = s.coldResets := by
  unfold State.sampleBank; split <;> rfl

@[simp] theorem State.sampleCab_cfg (s : State) : s.sampleCab.2.cfg = s.cfg := by
  unfold State.sampleCab; split <;> rfl
@[simp] theorem State.sampleCab_bank (s : State) : s.sampleCab.2.bank = s.bank := by
  unfold State.sampleCab; split <;> rfl
@[simp] theorem State.sampleCab_cabLatch (s : State) : s.sampleCab.2.cabLatch = s.cabLatch := by
  unfold State.sampleCab; split <;> rfl
@[simp] theorem State.sampleCab_prev (s : State) : s.sampleCab.2.prev = s.prev := by
  unfold State.sampleCab; split <;> rfl
@[simp] theorem State.sampleCab_partialCoins (s : State) : s.sampleCab.2.partialCoins = s.partialCoins := by
  unfold State.sampleCab; split <;> rfl
@[simp] theorem State.sampleCab_ctrlCache (s : State) : s.sampleCab.2.ctrlCache = s.ctrlCache := by
  unfold State.sampleCab; split <;> rfl
@[simp] theorem State.sampleCab_creepTable (s : State) : s.sampleCab.2.creepTable = s.creepTable := by
  unfold State.sampleCab; split <;> rfl
@[simp] theorem State.sampleCab_creepIdx (s : State) : s.sampleCab.2.creepIdx = s.creepIdx := by
  unfold State.sampleCab; split <;> rfl
@[simp] theorem State.sampleCab_pY (s : State) : s.sampleCab.2.pY = s.pY := by
  unfold State.sampleCab; split <;> rfl
@[simp] theorem State.sampleCab_pX (s : State) : s.sampleCab.2.pX = s.pX := by
  unfold State.sampleCab; split <;> rfl
@[simp] theorem State.sampleCab_yOverlap (s : State) : s.sampleCab.2.yOverlap = s.yOverlap := by
  unfold State.sampleCab; split <;> rfl
@[simp] theorem State.sampleCab_beastIdx (s : State) : s.sampleCab.2.beastIdx = s.beastIdx := by
  unfold State.sampleCab; split <;> rfl
@[simp] theorem State.sampleCab_status (s : State) : s.sampleCab.2.status = s.status := by
  unfold State.sampleCab; split <;> rfl
@[simp] theorem State.sampleCab_pc (s : State) : s.sampleCab.2.pc = s.pc := by
  unfold State.sampleCab; split <;> rfl
@[simp] theorem State.sampleCab_irqOut (s : State) : s.sampleCab.2.irqOut = s.irqOut := by
  unfold State.sampleCab; split <;> rfl
@[simp] theorem State.sampleCab_lockout (s : State) : s.sampleCab.2.lockout = s.lockout := by
  unfold State.sampleCab; split <;> rfl
@[simp] theorem State.sampleCab_trace (s : State) : s.sampleCab.2.trace = s.trace := by
  unfold State.sampleCab; split <;> rfl
@[simp] theorem State.sampleCab_shared (s : State) : s.sampleCab.2.shared = s.shared := by
  unfold State.sampleCab; split <;> rfl
@[simp] theorem State.sampleCab_heldBank (s : State) : s.sampleCab.2.heldBank = s.heldBank := by
  unfold State.sampleCab; split <;> rfl
@[simp] theorem State.sampleCab_heldCab (s : State) : s.sampleCab.2.heldCab = s.heldCab := by
  unfold State.sampleCab; split <;> rfl
@[simp] theorem State.sampleCab_script (s : State) : s.sampleCab.2.script = s.script := by
  unfold State.sampleCab; split <;> rfl
@[simp] theorem State.sampleCab_hostReads (s : State) : s.sampleCab.2.hostReads = s.hostReads := by
  unfold State.sampleCab; split <;> rfl
@[simp] theorem State.sampleCab_hostRace (s : State) : s.sampleCab.2.hostRace = s.hostRace := by
  unfold State.sampleCab; split <;> rfl
@[simp] theorem State.sampleCab_coldResets (s : State) : s.sampleCab.2.coldResets = s.coldResets := by
  unfold State.sampleCab; split <;> rfl

/-! ### `State.trigger` (rule R211) -/

@[simp] theorem State.trigger_cfg (s : State) : s.trigger.cfg = s.cfg := by unfold State.trigger; split <;> rfl
@[simp] theorem State.trigger_bank (s : State) : s.trigger.bank = s.bank := by unfold State.trigger; split <;> rfl
@[simp] theorem State.trigger_cabLatch (s : State) : s.trigger.cabLatch = s.cabLatch := by unfold State.trigger; split <;> rfl
@[simp] theorem State.trigger_prev (s : State) : s.trigger.prev = s.prev := by unfold State.trigger; split <;> rfl
@[simp] theorem State.trigger_partialCoins (s : State) : s.trigger.partialCoins = s.partialCoins := by unfold State.trigger; split <;> rfl
@[simp] theorem State.trigger_ctrlCache (s : State) : s.trigger.ctrlCache = s.ctrlCache := by unfold State.trigger; split <;> rfl
@[simp] theorem State.trigger_creepTable (s : State) : s.trigger.creepTable = s.creepTable := by unfold State.trigger; split <;> rfl
@[simp] theorem State.trigger_creepIdx (s : State) : s.trigger.creepIdx = s.creepIdx := by unfold State.trigger; split <;> rfl
@[simp] theorem State.trigger_pY (s : State) : s.trigger.pY = s.pY := by unfold State.trigger; split <;> rfl
@[simp] theorem State.trigger_pX (s : State) : s.trigger.pX = s.pX := by unfold State.trigger; split <;> rfl
@[simp] theorem State.trigger_yOverlap (s : State) : s.trigger.yOverlap = s.yOverlap := by unfold State.trigger; split <;> rfl
@[simp] theorem State.trigger_beastIdx (s : State) : s.trigger.beastIdx = s.beastIdx := by unfold State.trigger; split <;> rfl
@[simp] theorem State.trigger_status (s : State) : s.trigger.status = s.status := by unfold State.trigger; split <;> rfl
@[simp] theorem State.trigger_pc (s : State) :
    s.trigger.pc = if s.status = .running ∧ s.pc = .idle then .slot 0 else s.pc := by unfold State.trigger; split <;> rfl
@[simp] theorem State.trigger_irqOut (s : State) : s.trigger.irqOut = s.irqOut := by unfold State.trigger; split <;> rfl
@[simp] theorem State.trigger_lockout (s : State) : s.trigger.lockout = s.lockout := by unfold State.trigger; split <;> rfl
@[simp] theorem State.trigger_trace (s : State) : s.trigger.trace = s.trace := by unfold State.trigger; split <;> rfl
@[simp] theorem State.trigger_shared (s : State) : s.trigger.shared = s.shared := by unfold State.trigger; split <;> rfl
@[simp] theorem State.trigger_heldBank (s : State) : s.trigger.heldBank = s.heldBank := by unfold State.trigger; split <;> rfl
@[simp] theorem State.trigger_heldCab (s : State) : s.trigger.heldCab = s.heldCab := by unfold State.trigger; split <;> rfl
@[simp] theorem State.trigger_draws (s : State) : s.trigger.draws = s.draws := by unfold State.trigger; split <;> rfl
@[simp] theorem State.trigger_script (s : State) : s.trigger.script = s.script := by unfold State.trigger; split <;> rfl
@[simp] theorem State.trigger_hostReads (s : State) : s.trigger.hostReads = s.hostReads := by unfold State.trigger; split <;> rfl
@[simp] theorem State.trigger_hostRace (s : State) : s.trigger.hostRace = s.hostRace := by unfold State.trigger; split <;> rfl
@[simp] theorem State.trigger_coldResets (s : State) : s.trigger.coldResets = s.coldResets := by unfold State.trigger; split <;> rfl

end Sys2Proof.Machine
end

