-- ==== Sys2Proof/Laws/Slots.lean ====
section
/-!
SUPPORT. How a slot's pieces run. First the equations that let a slot be run symbolically in a quiet state; then, for
every shared operation, one statement of everything it can do; then `Steps`, the way to carry a relation between the
state before and the state after through a slot without unfolding it.
-/

namespace Sys2Proof.Machine

variable {α β : Type}

/-! ### The sequencing equations -/

@[simp] theorem run_bind (m : SlotM α) (f : α → SlotM β) (s : State) :
    (m >>= f).run s = match m.run s with
      | .ok a s' => (f a).run s'
      | .error e s' => .error e s' := by
  show EStateM.bind m f s = match m s with
      | .ok a s' => f a s'
      | .error e s' => .error e s'
  unfold EStateM.bind
  cases m s <;> rfl

@[simp] theorem run_pure (a : α) (s : State) : (pure a : SlotM α).run s = .ok a s := rfl

@[simp] theorem run_reg (f : State → α) (s : State) : (reg f).run s = .ok (f s) s := rfl

@[simp] theorem run_update (f : State → State) (s : State) : (update f).run s = .ok () (f s) := rfl

@[simp] theorem run_raise (st : Status) (s : State) :
    (raise st : SlotM α).run s = .error .terminal { s with status := st } := rfl

@[simp] theorem run_restartNow (s : State) : restartNow.run s = .error .restarted s.restart := rfl

@[simp] theorem run_ite (c : Prop) [Decidable c] (m n : SlotM α) (s : State) :
    (if c then m else n).run s = if c then m.run s else n.run s := by
  split <;> rfl

theorem runSlot_of_ok (n : Fin 21) (op : SlotM Unit) (s t : State) (h : op.run { s with pc := .slot n } = .ok () t) :
    runSlot n op s = .next { t with pc := nextPc n } := by
  unfold runSlot; rw [h]

theorem runSlot_of_error (n : Fin 21) (op : SlotM Unit) (s t : State) (e : Stop)
    (h : op.run { s with pc := .slot n } = .error e t) : runSlot n op s = .next t := by
  unfold runSlot; rw [h]

/-- A slot always answers a next state: completed, stopped or reset (rule R200). -/
theorem runSlot_next (n : Fin 21) (op : SlotM Unit) (s : State) : ∃ t, runSlot n op s = .next t := by
  unfold runSlot; split <;> exact ⟨_, rfl⟩

/-! ### In a quiet state -/

@[simp] theorem run_coldResetPoint_quiet (s : State) (h : s.coldResets = []) : coldResetPoint.run s = .ok () s := by
  show coldResetPoint s = _
  unfold coldResetPoint; rw [h]

@[simp] theorem run_hostPoint_quiet (s : State) (h : s.cfg.hostInterleave = false ∨ s.hostRace = []) :
    hostPoint.run s = .ok () s := by
  show hostPoint s = _
  unfold hostPoint
  rcases h with h | h <;> simp [h]

theorem run_readNow (a : Nat) (s : State) :
    (readNow a).run s = match s.busRead a with
      | some (v, s') => .ok v s'
      | none => .error .terminal { s with status := .faulted a } := rfl

theorem run_writeNow (a : Nat) (v : Byte) (s : State) :
    (writeNow a v).run s = match s.busWrite a v with
      | some s' => .ok () s'
      | none => .error .terminal { s with status := .faulted a } := rfl

@[simp] theorem run_readCabNow (s : State) : readCabNow.run s = .ok s.sampleCab.1 s.sampleCab.2 := rfl

/-- A read of `Shared` (rule R43). -/
@[simp] theorem run_memRead_quiet (s : State) (a : Nat) (h : s.coldResets = [])
    (h' : s.cfg.hostInterleave = false ∨ s.hostRace = []) (ha : InShared a) :
    (memRead a).run s = .ok (s.shared.get a) s := by
  have hi : ¬ InInputs a := by omega
  have hb : s.busRead a = some (s.shared.get a, s) := by
    simp only [State.busRead, hi, dite_false]
    exact if_pos ha
  simp [memRead, h, h', run_readNow, hb]

/-- A read of an input register (rules R32, R43). -/
@[simp] theorem run_memRead_input (s : State) (b : Fin 4) (h : s.coldResets = [])
    (h' : s.cfg.hostInterleave = false ∨ s.hostRace = []) :
    (memRead b.val).run s = .ok (s.sampleBank b).1 (s.sampleBank b).2 := by
  have hb : s.busRead b.val = some (s.sampleBank b) := by simp only [State.busRead, InInputs, b.isLt, dite_true]
  simp [memRead, h, h', run_readNow, hb]

/-- A read outside the two regions (rule R42). -/
theorem run_memRead_outside (s : State) (a : Nat) (h : s.coldResets = [])
    (h' : s.cfg.hostInterleave = false ∨ s.hostRace = []) (hi : ¬ InInputs a) (ha : ¬ InShared a) :
    (memRead a).run s = .error .terminal { s with status := .faulted a } := by
  have hb : s.busRead a = none := by simp only [State.busRead, hi, ha, dite_false, if_false]
  simp [memRead, h, h', run_readNow, hb]

/-- A write to `Shared` (rule R43). -/
@[simp] theorem run_memWrite_quiet (s : State) (a : Nat) (v : Byte) (h : s.coldResets = [])
    (h' : s.cfg.hostInterleave = false ∨ s.hostRace = []) (ha : InShared a) :
    (memWrite a v).run s = .ok () { s with shared := s.shared.put a v } := by
  have hb : s.busWrite a v = some { s with shared := s.shared.put a v } := if_pos ha
  simp [memWrite, h, h', run_writeNow, hb]

/-- A write outside `Shared` (rule R42). -/
theorem run_memWrite_outside (s : State) (a : Nat) (v : Byte) (h : s.coldResets = [])
    (h' : s.cfg.hostInterleave = false ∨ s.hostRace = []) (ha : ¬ InShared a) :
    (memWrite a v).run s = .error .terminal { s with status := .faulted a } := by
  have hb : s.busWrite a v = none := if_neg ha
  simp [memWrite, h, h', run_writeNow, hb]

@[simp] theorem run_raiseOneShot_quiet (s : State) (a : Nat) (v : Byte) (h : s.coldResets = [])
    (h' : s.cfg.hostInterleave = false ∨ s.hostRace = []) (ha : InShared a) :
    (raiseOneShot a v).run s = .ok () { s with shared := s.shared.put a v } := run_memWrite_quiet s a v h h' ha

@[simp] theorem run_readCab_quiet (s : State) (h : s.coldResets = []) :
    readCab.run s = .ok s.sampleCab.1 s.sampleCab.2 := by
  simp [readCab, h]

@[simp] theorem run_portWrite_quiet (s : State) (p : Port) (l : Bool) (h : s.coldResets = []) :
    (portWrite p l).run s = .ok () (s.drive p l) := by
  simp [portWrite, h]

@[simp] theorem run_engage_quiet (s : State) (h : s.coldResets = []) : engage.run s = .ok () (s.drive .lockout true) :=
  run_portWrite_quiet s _ _ h

@[simp] theorem run_disengage_quiet (s : State) (h : s.coldResets = []) :
    disengage.run s = .ok () (s.drive .lockout false) :=
  run_portWrite_quiet s _ _ h

@[simp] theorem run_edge (g : Signal) (now : Bool) (s : State) :
    (edge g now).run s = .ok (edgeCode s.prev[g.idx] now) { s with prev := s.prev.set g.idx now } := by
  simp [edge]

@[simp] theorem edgeCode_eq_fell (was now : Bool) : edgeCode was now = .fell ↔ was = true ∧ now = false := by
  cases was <;> cases now <;> simp [edgeCode]

/-! ### Everything an operation can do -/

/-- The cold resets to come after an access that went through: still none, or the first one access nearer (rule R231). -/
def Counted (s : State) (n : List Nat) : Prop :=
  (s.coldResets = [] ∧ n = []) ∨ ∃ k later, s.coldResets = (k + 1) :: later ∧ n = k :: later

/-- The HOST writes before an access: none, or, under `HOST_INTERLEAVE`, the next group of the schedule (rules R51, R52). -/
def Raced (s : State) (r : List (List HostWrite)) (ws : List HostWrite) : Prop :=
  (r = s.hostRace ∧ ws = []) ∨ (s.cfg.hostInterleave = true ∧ s.hostRace = ws :: r)

/-- What the environment may have done before an access that went through. -/
def Arrived (s t : State) : Prop :=
  ∃ n r ws, Counted s n ∧ Raced s r ws ∧ t = { s with coldResets := n, hostRace := r, shared := s.shared.hostWrites ws }

/-- Everything a reset point can do: the cold reset when it is due, else one tick of its countdown. -/
theorem coldResetPoint_cases (s : State) :
    (∃ later, s.coldResets = 0 :: later ∧ coldResetPoint.run s = .error .restarted { s with coldResets := later }.restart) ∨
    ∃ n, Counted s n ∧ coldResetPoint.run s = .ok () { s with coldResets := n } := by
  have e : coldResetPoint.run s = match s.coldResets with
      | [] => .ok () s
      | 0 :: later => .error .restarted { s with coldResets := later }.restart
      | (n + 1) :: later => .ok () { s with coldResets := n :: later } := rfl
  rw [e]
  split
  · rename_i h; exact .inr ⟨[], .inl ⟨h, rfl⟩, by rw [← h]⟩
  · rename_i later h; exact .inl ⟨later, h, rfl⟩
  · rename_i k later h; exact .inr ⟨k :: later, .inr ⟨k, later, h, rfl⟩, rfl⟩

/-- Everything a HOST access point can do: nothing, or one group of HOST writes. -/
theorem hostPoint_cases (s : State) :
    ∃ r ws, Raced s r ws ∧ hostPoint.run s = .ok () { s with hostRace := r, shared := s.shared.hostWrites ws } := by
  have e : hostPoint.run s = if s.cfg.hostInterleave then
      match s.hostRace with
      | [] => .ok () s
      | ws :: rest => .ok () { s with shared := s.shared.hostWrites ws, hostRace := rest }
    else .ok () s := rfl
  rw [e]
  split
  · rename_i hi
    split
    · exact ⟨s.hostRace, [], .inl ⟨rfl, rfl⟩, rfl⟩
    · rename_i ws r h; exact ⟨r, ws, .inr ⟨hi, h⟩, rfl⟩
  · exact ⟨s.hostRace, [], .inl ⟨rfl, rfl⟩, rfl⟩

/-- Everything `MemRead` can do. -/
theorem memRead_cases (a : Nat) (s : State) :
    (∃ later, s.coldResets = 0 :: later ∧ (memRead a).run s = .error .restarted { s with coldResets := later }.restart) ∨
    ∃ t, Arrived s t ∧
      ((∃ v u, t.busRead a = some (v, u) ∧ (memRead a).run s = .ok v u) ∨
       (t.busRead a = none ∧ (memRead a).run s = .error .terminal { t with status := .faulted a })) := by
  rcases coldResetPoint_cases s with ⟨later, h0, h⟩ | ⟨n, hn, h⟩
  · left; exact ⟨later, h0, by simp [memRead, h]⟩
  · right
    obtain ⟨r, ws, hr, h'⟩ := hostPoint_cases { s with coldResets := n }
    refine ⟨_, ⟨n, r, ws, hn, hr, rfl⟩, ?_⟩
    simp only [memRead, run_bind, h, h', run_readNow]
    split
    · rename_i v u hb; exact .inl ⟨v, u, hb, rfl⟩
    · rename_i hb; exact .inr ⟨hb, rfl⟩

/-- Everything `MemWrite` can do. -/
theorem memWrite_cases (a : Nat) (v : Byte) (s : State) :
    (∃ later, s.coldResets = 0 :: later ∧ (memWrite a v).run s = .error .restarted { s with coldResets := later }.restart) ∨
    ∃ t, Arrived s t ∧
      ((InShared a ∧ (memWrite a v).run s = .ok () { t with shared := t.shared.put a v }) ∨
       (¬ InShared a ∧ (memWrite a v).run s = .error .terminal { t with status := .faulted a })) := by
  rcases coldResetPoint_cases s with ⟨later, h0, h⟩ | ⟨n, hn, h⟩
  · left; exact ⟨later, h0, by simp [memWrite, h]⟩
  · right
    obtain ⟨r, ws, hr, h'⟩ := hostPoint_cases { s with coldResets := n }
    refine ⟨_, ⟨n, r, ws, hn, hr, rfl⟩, ?_⟩
    simp only [memWrite, run_bind, h, h', run_writeNow, State.busWrite]
    by_cases ha : InShared a
    · exact .inl ⟨ha, by rw [if_pos ha]⟩
    · exact .inr ⟨ha, by rw [if_neg ha]⟩

/-- Everything a bus read can do: the two regions and the rest (rules R41 to R43). -/
theorem busRead_cases (s : State) (a : Nat) :
    (∃ h : InInputs a, s.busRead a = some (s.sampleBank ⟨a, h⟩)) ∨
    (¬ InInputs a ∧ InShared a ∧ s.busRead a = some (s.shared.get a, s)) ∨
    (¬ InInputs a ∧ ¬ InShared a ∧ s.busRead a = none) := by
  unfold State.busRead
  by_cases h : InInputs a
  · exact .inl ⟨h, by simp [h]⟩
  · by_cases h' : InShared a
    · exact .inr (.inl ⟨h, h', by simp [h, h']⟩)
    · exact .inr (.inr ⟨h, h', by simp only [h, h', dite_false, if_false]⟩)

/-- Everything an input sample can do: the held byte and no change, or a free byte and one more draw (rule R32). -/
theorem sampleBank_cases (s : State) (b : Fin 4) :
    (∃ v, s.heldBank[b] = some v ∧ s.sampleBank b = (v, s)) ∨
    (s.heldBank[b] = none ∧ s.sampleBank b = (Config.drawBank b s.draws, { s with draws := s.draws + 1 })) := by
  unfold State.sampleBank
  split
  · rename_i v h; exact .inl ⟨v, h, rfl⟩
  · rename_i h; exact .inr ⟨h, rfl⟩

/-- Everything a port write can do. -/
theorem portWrite_cases (p : Port) (l : Bool) (s : State) :
    (∃ later, s.coldResets = 0 :: later ∧ (portWrite p l).run s = .error .restarted { s with coldResets := later }.restart) ∨
    ∃ n, Counted s n ∧ (portWrite p l).run s = .ok () ({ s with coldResets := n }.drive p l) := by
  rcases coldResetPoint_cases s with ⟨later, h0, h⟩ | ⟨n, hn, h⟩
  · left; exact ⟨later, h0, by simp [portWrite, h]⟩
  · right; exact ⟨n, hn, by simp [portWrite, h]⟩

/-- Everything a read of `CAB_IN` can do. -/
theorem readCab_cases (s : State) :
    (∃ later, s.coldResets = 0 :: later ∧ readCab.run s = .error .restarted { s with coldResets := later }.restart) ∨
    ∃ n, Counted s n ∧ readCab.run s = .ok { s with coldResets := n }.sampleCab.1 { s with coldResets := n }.sampleCab.2 := by
  rcases coldResetPoint_cases s with ⟨later, h0, h⟩ | ⟨n, hn, h⟩
  · left; exact ⟨later, h0, by simp [readCab, h]⟩
  · right; exact ⟨n, hn, by simp [readCab, h]⟩

/-! ### Relations carried through a slot -/

/-- The state a piece of a slot ends in, early or not. -/
def endState : EStateM.Result Stop State α → State
  | .ok _ s => s
  | .error _ s => s

@[simp] theorem endState_ok (a : α) (s : State) : endState (.ok a s : EStateM.Result Stop State α) = s := rfl
@[simp] theorem endState_error (e : Stop) (s : State) : endState (.error e s : EStateM.Result Stop State α) = s := rfl

/-- `m` relates every state to the one it ends in. For an invariant `P` take `fun s t => P s → P t`; for a frame, the
equality of the fields in question. -/
def Steps (R : State → State → Prop) (m : SlotM α) : Prop := ∀ s, R s (endState (m.run s))

/-- A relation that what the environment does respects: the countdown and the coming of a cold reset, HOST writes under
`HOST_INTERLEAVE`, input draws. A relation that holds only while no reset is due, or only without interleaving, takes
that as a premise on its first state. -/
structure Closed (R : State → State → Prop) : Prop where
  refl  : ∀ s, R s s
  trans : ∀ s t u, R s t → R t u → R s u
  count : ∀ s k later, s.coldResets = (k + 1) :: later → R s { s with coldResets := k :: later }
  cold  : ∀ s later, s.coldResets = 0 :: later → R s { s with coldResets := later }.restart
  race  : ∀ s ws r, s.cfg.hostInterleave = true → s.hostRace = ws :: r →
    R s { s with shared := s.shared.hostWrites ws, hostRace := r }
  draw  : ∀ s n, R s { s with draws := n }

section
variable {R : State → State → Prop}

theorem Closed.counted (hR : Closed R) {s : State} {n : List Nat} (h : Counted s n) : R s { s with coldResets := n } := by
  rcases h with ⟨h, rfl⟩ | ⟨k, later, h, rfl⟩
  · have e : { s with coldResets := [] } = s := by rw [← h]
    rw [e]; exact hR.refl s
  · exact hR.count s k later h

theorem Closed.arrived (hR : Closed R) {s t : State} (h : Arrived s t) : R s t := by
  obtain ⟨n, r, ws, hn, hr, rfl⟩ := h
  refine hR.trans _ _ _ (hR.counted hn) ?_
  rcases hr with ⟨rfl, rfl⟩ | ⟨hi, hr⟩
  · exact hR.refl _
  · exact hR.race { s with coldResets := n } ws r hi hr

theorem steps_pure (hR : Closed R) (a : α) : Steps R (pure a : SlotM α) := fun s => hR.refl s

theorem steps_reg (hR : Closed R) (f : State → α) : Steps R (reg f) := fun s => hR.refl s

theorem steps_update (f : State → State) (h : ∀ s, R s (f s)) : Steps R (update f) := h

theorem steps_raise (st : Status) (h : ∀ s, R s { s with status := st }) : Steps R (raise st : SlotM α) := h

theorem steps_restartNow (h : ∀ s, R s s.restart) : Steps R restartNow := h

theorem steps_bind (hR : Closed R) {m : SlotM α} {f : α → SlotM β} (hm : Steps R m) (hf : ∀ a, Steps R (f a)) :
    Steps R (m >>= f) := by
  intro s
  have h1 := hm s
  rw [run_bind]
  cases h : m.run s with
  | ok a t => rw [h] at h1; exact hR.trans _ _ _ h1 (hf a t)
  | error e t => rw [h] at h1; exact h1

theorem steps_ite {c : Prop} [Decidable c] {m n : SlotM α} (hm : Steps R m) (hn : Steps R n) :
    Steps R (if c then m else n) := by
  split <;> assumption

theorem steps_coldResetPoint (hR : Closed R) : Steps R coldResetPoint := by
  intro s
  rcases coldResetPoint_cases s with ⟨later, h0, h⟩ | ⟨n, hn, h⟩
  · rw [h]; exact hR.cold s later h0
  · rw [h]; exact hR.counted hn

theorem steps_memRead (hR : Closed R) (a : Nat) (hf : InInputs a ∨ InShared a ∨ ∀ s, R s { s with status := .faulted a }) :
    Steps R (memRead a) := by
  intro s
  rcases memRead_cases a s with ⟨later, h0, h⟩ | ⟨t, ht, ⟨v, u, hb, h⟩ | ⟨hb, h⟩⟩
  · rw [h]; exact hR.cold s later h0
  · rw [h]
    refine hR.trans _ _ _ (hR.arrived ht) ?_
    rcases busRead_cases t a with ⟨hi, h'⟩ | ⟨-, -, h'⟩ | ⟨-, -, h'⟩
    · rw [h'] at hb
      rcases sampleBank_cases t ⟨a, hi⟩ with ⟨w, -, h''⟩ | ⟨-, h''⟩ <;>
        · rw [h''] at hb
          simp only [Option.some.injEq, Prod.mk.injEq] at hb
          obtain ⟨-, rfl⟩ := hb
          first | exact hR.refl _ | exact hR.draw _ _
    · rw [h'] at hb
      simp only [Option.some.injEq, Prod.mk.injEq] at hb
      obtain ⟨-, rfl⟩ := hb
      exact hR.refl _
    · rw [h'] at hb; cases hb
  · rw [h]
    refine hR.trans _ _ _ (hR.arrived ht) ?_
    rcases busRead_cases t a with ⟨hi, h'⟩ | ⟨-, -, h'⟩ | ⟨hi, hs, h'⟩
    · rw [h'] at hb; cases hb
    · rw [h'] at hb; cases hb
    · rcases hf with hf | hf | hf
      · exact absurd hf hi
      · exact absurd hf hs
      · exact hf t

theorem steps_memWrite (hR : Closed R) (a : Nat) (v : Byte)
    (hw : InShared a → ∀ s, R s { s with shared := s.shared.put a v })
    (hf : InShared a ∨ ∀ s, R s { s with status := .faulted a }) : Steps R (memWrite a v) := by
  intro s
  rcases memWrite_cases a v s with ⟨later, h0, h⟩ | ⟨t, ht, ⟨ha, h⟩ | ⟨ha, h⟩⟩
  · rw [h]; exact hR.cold s later h0
  · rw [h]; exact hR.trans _ _ _ (hR.arrived ht) (hw ha t)
  · rw [h]
    refine hR.trans _ _ _ (hR.arrived ht) ?_
    rcases hf with hf | hf
    · exact absurd hf ha
    · exact hf t

theorem steps_portWrite (hR : Closed R) (p : Port) (l : Bool) (hd : ∀ s, R s (s.drive p l)) :
    Steps R (portWrite p l) := by
  intro s
  rcases portWrite_cases p l s with ⟨later, h0, h⟩ | ⟨n, hn, h⟩
  · rw [h]; exact hR.cold s later h0
  · rw [h]; exact hR.trans _ _ _ (hR.counted hn) (hd _)

theorem steps_readCab (hR : Closed R) : Steps R readCab := by
  intro s
  rcases readCab_cases s with ⟨later, h0, h⟩ | ⟨n, hn, h⟩
  · rw [h]; exact hR.cold s later h0
  · rw [h]
    refine hR.trans _ _ _ (hR.counted hn) ?_
    simp only [endState_ok, State.sampleCab]
    split
    · exact hR.refl _
    · exact hR.draw _ _

/-- A relation through a slot's body goes through the slot, `pc` moves included. -/
theorem steps_runSlot (hR : Closed R) (hpc : ∀ s p, R s { s with pc := p }) {n : Fin 21} {op : SlotM Unit}
    (h : Steps R op) {s t : State} (e : runSlot n op s = .next t) : R s t := by
  have h1 := h { s with pc := .slot n }
  unfold runSlot at e
  cases h2 : op.run { s with pc := .slot n } with
  | ok a u =>
    rw [h2] at h1 e
    simp only [Host.Outcome.next.injEq] at e
    subst e
    exact hR.trans _ _ _ (hpc s _) (hR.trans _ _ _ h1 (hpc u _))
  | error x u =>
    rw [h2] at h1 e
    simp only [Host.Outcome.next.injEq] at e
    subst e
    exact hR.trans _ _ _ (hpc s _) h1

end

end Sys2Proof.Machine
end

