-- ==== Sys2Proof/Laws/Triples.lean ====
section
/-!
SUPPORT. Triples: what a piece of a slot leaves when it starts in a state with a given property. Where `Steps` relates the
first state to the last whatever was read in between, a triple carries what is known from one access to the next.
-/

namespace Sys2Proof.Machine

variable {α β : Type} {E P : State → Prop}

/-- From a state with `P`, `m` either completes with an answer and a state that `Q` admits, or ends early in a state with
`E`. -/
def Triple (E P : State → Prop) (m : SlotM α) (Q : α → State → Prop) : Prop :=
  ∀ s, P s → match m.run s with
    | .ok a t => Q a t
    | .error _ t => E t

/-- What the environment does at an access leaves `P` alone, and a cold reset ends in `E`. -/
structure Undisturbed (E P : State → Prop) : Prop where
  count : ∀ s k later, P s → s.coldResets = (k + 1) :: later → P { s with coldResets := k :: later }
  cold  : ∀ s later, P s → s.coldResets = 0 :: later → E { s with coldResets := later }.restart
  race  : ∀ s ws r, P s → s.cfg.hostInterleave = true → s.hostRace = ws :: r →
    P { s with shared := s.shared.hostWrites ws, hostRace := r }
  draw  : ∀ s n, P s → P { s with draws := n }

theorem triple_bind {m : SlotM α} {f : α → SlotM β} {Q : α → State → Prop} {T : β → State → Prop}
    (h1 : Triple E P m Q) (h2 : ∀ a, Triple E (Q a) (f a) T) : Triple E P (m >>= f) T := by
  intro s hs
  have h := h1 s hs
  rw [run_bind]
  cases e : m.run s with
  | ok a t => rw [e] at h; exact h2 a t h
  | error x t => rw [e] at h; exact h

theorem triple_conseq {P' : State → Prop} {m : SlotM α} {Q Q' : α → State → Prop} (h : Triple E P m Q)
    (hp : ∀ s, P' s → P s) (hq : ∀ a s, Q a s → Q' a s) : Triple E P' m Q' := by
  intro s hs
  have h1 := h s (hp s hs)
  cases e : m.run s with
  | ok a t => rw [e] at h1; exact hq a t h1
  | error x t => rw [e] at h1; exact h1

theorem triple_pure {Q : α → State → Prop} (a : α) (h : ∀ s, P s → Q a s) : Triple E P (pure a) Q := h

theorem triple_reg {Q : α → State → Prop} (f : State → α) (h : ∀ s, P s → Q (f s) s) : Triple E P (reg f) Q := h

theorem triple_update {Q : Unit → State → Prop} (f : State → State) (h : ∀ s, P s → Q () (f s)) :
    Triple E P (update f) Q := h

theorem triple_raise {Q : α → State → Prop} (st : Status) (h : ∀ s, P s → E { s with status := st }) :
    Triple E P (raise st) Q := h

theorem triple_restartNow {Q : Unit → State → Prop} (h : ∀ s, P s → E s.restart) : Triple E P restartNow Q := h

theorem triple_ite {c : Prop} [Decidable c] {m n : SlotM α} {Q : α → State → Prop} (h1 : c → Triple E P m Q)
    (h2 : ¬ c → Triple E P n Q) : Triple E P (if c then m else n) Q := by
  split
  · exact h1 ‹_›
  · exact h2 ‹_›

/-- The configuration a slot reads is the one the state holds. -/
theorem triple_cfg {c : Cfg} (hP : ∀ s, P s → s.cfg = c) {f : Cfg → SlotM β} {T : β → State → Prop}
    (h : Triple E P (f c) T) : Triple E P (reg (·.cfg) >>= f) T := by
  intro s hs
  rw [run_bind, run_reg, hP s hs]
  exact h s hs

theorem triple_coldResetPoint (h : Undisturbed E P) : Triple E P coldResetPoint (fun _ => P) := by
  intro s hs
  rcases coldResetPoint_cases s with ⟨later, h0, e⟩ | ⟨n, hn, e⟩ <;> rw [e]
  · exact h.cold s later hs h0
  · rcases hn with ⟨h0, rfl⟩ | ⟨k, later, h0, rfl⟩
    · have e : { s with coldResets := [] } = s := by rw [← h0]
      rw [e]; exact hs
    · exact h.count s k later hs h0

theorem triple_hostPoint (h : Undisturbed E P) : Triple E P hostPoint (fun _ => P) := by
  intro s hs
  obtain ⟨r, ws, hr, e⟩ := hostPoint_cases s
  rw [e]
  rcases hr with ⟨rfl, rfl⟩ | ⟨hi, hr⟩
  · exact hs
  · exact h.race s ws r hs hi hr

/-- A read of a cell of `Shared`: the byte that stands there at the access. -/
theorem triple_memRead (h : Undisturbed E P) (a : Nat) (ha : InShared a) :
    Triple E P (memRead a) (fun v s => P s ∧ v = s.shared.get a) := by
  refine triple_bind (triple_coldResetPoint h) fun _ => triple_bind (triple_hostPoint h) fun _ => ?_
  intro s hs
  rw [run_readNow]
  rcases busRead_cases s a with ⟨hi, -⟩ | ⟨-, -, e⟩ | ⟨-, hn, -⟩
  · exact absurd ha.1 (by omega)
  · rw [e]; exact ⟨hs, rfl⟩
  · exact absurd ha hn

/-- A read of an input register. -/
theorem triple_memRead_input (h : Undisturbed E P) (b : Fin 4) : Triple E P (memRead b.val) (fun _ => P) := by
  refine triple_bind (triple_coldResetPoint h) fun _ => triple_bind (triple_hostPoint h) fun _ => ?_
  intro s hs
  rw [run_readNow]
  rcases busRead_cases s b.val with ⟨hi, e⟩ | ⟨hn, -, -⟩ | ⟨hn, -, -⟩
  · rw [e]
    show P (s.sampleBank b).2
    rcases sampleBank_cases s b with ⟨w, -, e'⟩ | ⟨-, e'⟩ <;> rw [e']
    · exact hs
    · exact h.draw s _ hs
  · exact absurd b.isLt hn
  · exact absurd b.isLt hn

theorem triple_readCab (h : Undisturbed E P) : Triple E P readCab (fun _ => P) := by
  refine triple_bind (triple_coldResetPoint h) fun _ => ?_
  intro s hs
  rw [run_readCabNow]
  simp only [State.sampleCab]
  split
  · exact hs
  · exact h.draw s _ hs

/-- A write to a cell of `Shared`. -/
theorem triple_memWrite {Q : Unit → State → Prop} (h : Undisturbed E P) (a : Nat) (v : Byte) (ha : InShared a)
    (hw : ∀ s, P s → Q () { s with shared := s.shared.put a v }) : Triple E P (memWrite a v) Q := by
  refine triple_bind (triple_coldResetPoint h) fun _ => triple_bind (triple_hostPoint h) fun _ => ?_
  intro s hs
  rw [run_writeNow, State.busWrite, if_pos ha]
  exact hw s hs

theorem triple_portWrite {Q : Unit → State → Prop} (h : Undisturbed E P) (p : Port) (l : Bool)
    (hd : ∀ s, P s → Q () (s.drive p l)) : Triple E P (portWrite p l) Q :=
  triple_bind (triple_coldResetPoint h) fun _ => triple_update _ hd

end Sys2Proof.Machine
end

