-- ==== Sys2Proof/Tests/Slice0.lean ====
section
/-!
SUPPORT. Tests of one instruction or one step each, with the values of the spec's test vectors (file 95, named at each
test), words written out by hand from the spec's encodings, the smoke test of `WellFormed`, and, for each statement that
has hypotheses, a theorem that some concrete state meets them.
-/

namespace Sys2Proof.Tests

open Sys2Proof Sys2Proof.Machine

set_option Elab.async false

/-! ### Helpers -/

/-- The reset state with some cells of `Shared` written. -/
def cells (l : List (Nat × Byte)) : State :=
  { State.reset with shared := l.foldl (fun m c => m.put c.1 c.2) [] }

/-- `f` of the next state. -/
def after {α : Type} (i : Instr) (s : State) (f : State → α) : Option α :=
  match exec i s with
  | .next t => some (f t)
  | .fault _ => none
  | .refused _ => none

/-- `f` of the state after one step. -/
def afterStep {α : Type} (s : State) (f : State → α) : Option α :=
  match step s with
  | .next t => some (f t)
  | .fault _ => none
  | .refused _ => none

/-- What some cells hold in the next state. -/
def cellsAfter (i : Instr) (s : State) (l : List Nat) : Option (List Byte) := after i s fun t => l.map t.shared.get

/-! ### Well-formed instructions -/

theorem test_hw_below_shared : ¬ (Instr.hw 0xBFF 0).WF := by decide
theorem test_hw_above_shared : ¬ (Instr.hw 0x1000 0).WF := by decide
theorem test_hw_inputs : ¬ (Instr.hw 3 0).WF := by decide
theorem test_hw_shared : (Instr.hw 0xC00 0).WF ∧ (Instr.hw 0xFFF 0).WF := by decide
theorem test_hr_hole : ¬ (Instr.hr 4 0).WF ∧ ¬ (Instr.hr 0xBFF 0).WF ∧ ¬ (Instr.hr 0xFFFF 0).WF := by decide
theorem test_hr_regions : (Instr.hr 0 0).WF ∧ (Instr.hr 3 0).WF ∧ (Instr.hr 0xC00 0).WF ∧ (Instr.hr 0xFFF 0).WF := by decide
theorem test_inp_bank : decode Cfg.ref (.script [0x49, 0x04, 0x00]) = .error (.noSuchBank 4) := by decide

/-! ### Decoding, words written out from rules R60, R62, R67 and R73 -/

theorem test_decode_slots_0_to_6 :
    decode Cfg.ref (.slot 0b00000) = .ok .irq ∧ decode Cfg.ref (.slot 0b00001) = .ok .inrel ∧
    decode Cfg.ref (.slot 0b00010) = .ok .credit ∧ decode Cfg.ref (.slot 0b00011) = .ok .lock ∧
    decode Cfg.ref (.slot 0b00100) = .ok .ctrl0 ∧ decode Cfg.ref (.slot 0b00101) = .ok .ctrl1 ∧
    decode Cfg.ref (.slot 0b00110) = .ok .ctrl2 := by decide

theorem test_decode_slots_7_to_13 :
    decode Cfg.ref (.slot 0b00111) = .ok .beast0 ∧ decode Cfg.ref (.slot 0b01000) = .ok .beast1 ∧
    decode Cfg.ref (.slot 0b01001) = .ok .creep0 ∧ decode Cfg.ref (.slot 0b01010) = .ok .creep1 ∧
    decode Cfg.ref (.slot 0b01011) = .ok .creep2 ∧ decode Cfg.ref (.slot 0b01100) = .ok .creep3 ∧
    decode Cfg.ref (.slot 0b01101) = .ok .clock := by decide

theorem test_decode_slots_14_to_20 :
    decode Cfg.ref (.slot 0b01110) = .ok .mischief ∧ decode Cfg.ref (.slot 0b01111) = .ok .extend ∧
    decode Cfg.ref (.slot 0b10000) = .ok .xlat0 ∧ decode Cfg.ref (.slot 0b10001) = .ok .xlat1 ∧
    decode Cfg.ref (.slot 0b10010) = .ok .xlat2 ∧ decode Cfg.ref (.slot 0b10011) = .ok .rstw ∧
    decode Cfg.ref (.slot 0b10100) = .ok .delay := by decide

/-- Only 21 of the 32 slot values are slots. -/
theorem test_decode_no_slot :
    decode Cfg.ref (.slot 0b10101) = .error (.noSuchSlot 21) ∧ decode Cfg.ref (.slot 0b11111) = .error (.noSuchSlot 31) := by
  decide

theorem test_decode_commands :
    decode Cfg.ref (.cmd .irqMarker 0x47) = .ok .irqReady ∧ decode Cfg.ref (.cmd .lockCmd 0x01) = .ok .lockEngage ∧
    decode Cfg.ref (.cmd .lockCmd 0xFF) = .ok .lockDisengage ∧
    (∀ c, decode Cfg.ref (.cmd (.ctrlCmd c) 0x00) = .ok (.ctrlIdle c)) ∧
    (∀ c, decode Cfg.ref (.cmd (.ctrlGate c) 0x42) = .ok (.diagGate c)) ∧
    decode Cfg.ref (.cmd .mischiefEn 0x0D) = .ok .mischiefEn ∧
    (∀ t, decode Cfg.ref (.cmd (.xlStatus t) 0x01) = .ok (.xlatArm t)) ∧
    (∀ t, decode Cfg.ref (.cmd (.xlStatus t) 0xFF) = .ok (.xlatDone t)) ∧
    decode Cfg.ref (.cmd .resetCmd 0x4A) = .ok .rstWarm ∧ decode Cfg.ref (.cmd .delayMarker 0x01) = .ok .delayMark := by
  decide

theorem test_decode_credit_commands :
    decode Cfg.ref (.cmd (.ctrlCmd 0) 0x01) = .ok .ctrl0Derive ∧ decode Cfg.ref (.cmd (.ctrlCmd 0) 0x02) = .ok .ctrl0Inc ∧
    decode Cfg.ref (.cmd (.ctrlCmd 0) 0x04) = .ok .ctrl0Dec ∧ decode Cfg.ref (.cmd (.ctrlCmd 0) 0x08) = .ok .ctrl0SetMax ∧
    decode Cfg.ref (.cmd (.ctrlCmd 1) 0x01) = .ok .ctrl1Derive ∧ decode Cfg.ref (.cmd (.ctrlCmd 1) 0x02) = .ok .ctrl1Inc ∧
    decode Cfg.ref (.cmd (.ctrlCmd 1) 0x04) = .ok .ctrl1Dec ∧ decode Cfg.ref (.cmd (.ctrlCmd 1) 0x08) = .ok .ctrl1SetMax := by
  decide

theorem test_decode_level_commands :
    decode Cfg.ref (.cmd (.ctrlCmd 2) 0x01) = .ok .ctrl2Set00 ∧ decode Cfg.ref (.cmd (.ctrlCmd 2) 0x02) = .ok .ctrl2Inc ∧
    decode Cfg.ref (.cmd (.ctrlCmd 2) 0x04) = .ok .ctrl2Set31 ∧ decode Cfg.ref (.cmd (.ctrlCmd 2) 0x08) = .ok .ctrl2Set62 ∧
    decode Cfg.ref (.cmd (.ctrlCmd 2) 0x10) = .ok .ctrl2Set63 ∧ decode Cfg.ref (.cmd (.ctrlCmd 2) 0x20) = .ok .ctrl2Set64 ∧
    decode Cfg.ref (.cmd (.ctrlCmd 2) 0x40) = .ok .ctrl2Set65 := by
  decide

/-- All eight bits are compared: a second set bit, or the one unmapped bit, is no command. -/
theorem test_decode_no_command :
    decode Cfg.ref (.cmd (.ctrlCmd 0) 0x03) = .error (.noSuchCommand (.ctrlCmd 0) 0x03) ∧
    decode Cfg.ref (.cmd (.ctrlCmd 1) 0x10) = .error (.noSuchCommand (.ctrlCmd 1) 0x10) ∧
    decode Cfg.ref (.cmd (.ctrlCmd 2) 0x80) = .error (.noSuchCommand (.ctrlCmd 2) 0x80) ∧
    decode Cfg.ref (.cmd .irqMarker 0xC7) = .error (.noSuchCommand .irqMarker 0xC7) := by
  decide

/-- `HW 0xC05, 0x47`, `HR 0xC09 -> 0x01`, `IN 0, 0x20`, `CAB 0x04`, `TICK`, `RESET`, the bytes of P1. -/
theorem test_decode_script :
    decode Cfg.ref (.script [0x57, 0x0C, 0x05, 0x47]) = .ok (.hw 0xC05 0x47) ∧
    decode Cfg.ref (.script [0x52, 0x0C, 0x09, 0x01]) = .ok (.hr 0xC09 0x01) ∧
    decode Cfg.ref (.script [0x49, 0x00, 0x20]) = .ok (.inp 0 0x20) ∧
    decode Cfg.ref (.script [0x43, 0x04]) = .ok (.cab 0x04) ∧ decode Cfg.ref (.script [0x54]) = .ok .tick ∧
    decode Cfg.ref (.script [0x58]) = .ok .reset := by
  decide

theorem test_decode_bad_script :
    decode Cfg.ref (.script [0x59]) = .error (.noSuchLine 0x59) ∧
    decode Cfg.ref (.script [0x57, 0x0C, 0x05]) = .error (.truncatedLine 0x57) ∧
    decode Cfg.ref (.script []) = .error (.truncatedLine 0) := by
  decide

/-- Table words: the first byte is the low one. -/
theorem test_table_words :
    decodeTableWord 8 0x0D = some .clock ∧ decodeTableWord 8 0x47 = some .irqReady ∧ decodeTableWord 8 0x54 = some .tick ∧
    decodeTableWord 8 0x57 = some (.hw 0 0) ∧ decodeTableWord 32 0x47050C57 = some (.hw 0xC05 0x47) ∧
    decodeTableWord 8 0x15 = none := by
  decide +kernel

theorem test_fetch_word_slot : afterStep (State.reset.withFetchWord 8 0x0D) id = some { State.reset with pc := .slot 14 } := by
  decide +kernel

theorem test_fetch_word_command :
    afterStep (State.reset.withFetchWord 8 0x47) (fun t => (t.trace, t.pc)) =
      some ([(.irqOut, false), (.irqOut, true), (.irqOut, false)], .slot 1) := by
  decide +kernel

theorem test_fetch_word_script : afterStep (State.reset.withFetchWord 8 0x54) id = some { State.reset with pc := .slot 0 } := by
  decide +kernel

/-! ### Interrupt gate and input relay -/

/-- V-IRQ-1. -/
theorem test_irq_pulse :
    after .irq (cells [(0xC05, 0x47)]) (fun t => (t.irqOut, t.trace, t.shared.get 0xC05)) =
      some (false, [(.irqOut, false), (.irqOut, true), (.irqOut, false)], 0x47) := by decide +kernel

/-- V-IRQ-2. -/
theorem test_irq_no_marker : after .irq (cells [(0xC05, 0x46)]) (·.trace) = some [] := by decide +kernel

theorem test_irqReady : after .irqReady State.reset (fun t => (t.pc, t.trace.length)) = some (.slot 1, 3) := by decide +kernel

/-- V-INREL-1. -/
def relayIn : State := { State.reset with heldCab := some 0xFB, heldBank := #v[some 0x3F, some 0xFF, some 0x00, some 0x80] }

theorem test_inrel_mirrors : cellsAfter .inrel relayIn [0xC00, 0xC01, 0xC02, 0xC03, 0xC04] = some [0xFB, 0x3F, 0xFF, 0x00, 0x80] := by
  decide +kernel
theorem test_inrel_registers :
    after .inrel relayIn (fun t => (t.cabLatch, t.bank)) = some (0xFB, #v[0x3F, 0xFF, 0x00, 0x80]) := by decide +kernel

/-! ### Credit tracker and lockout -/

/-- V-CRED-4: line B, two coins for three credits, the second coin. -/
theorem test_credit_second_coin :
    after .credit { State.reset with prev := #v[false, true, false], partialCoins := #v[0, 1], bank := #v[0xC0, 0, 0, 0] }
      (fun t => (t.partialCoins, t.prev, [0xC09, 0xC0A].map t.shared.get)) =
      some (#v[0, 0], #v[false, false, false], [3, 1]) := by decide +kernel

/-- V-CRED-8: the coin first, so the service line finds the ceiling. -/
theorem test_credit_order :
    after .credit { cells [(0xC09, 0x08)] with prev := #v[true, false, true] }
      (fun t => (t.trace, [0xC09, 0xC0A].map t.shared.get)) =
      some ([(.lockout, true), (.lockout, true)], [9, 1]) := by decide +kernel

/-- Rule R101 by hand: the reference bits are bit 2, 3 and 1 of the cabinet byte. With only coin A's bit clear, coin A falls and
coin B's bit is set. -/
theorem test_credit_bits :
    after .credit { State.reset with prev := #v[true, false, false], cabLatch := 0xFB }
      (fun t => (t.prev, [0xC09, 0xC0A].map t.shared.get)) = some (#v[false, true, true], [1, 1]) := by decide +kernel

/-- Rule R101 with coin B at bit 3 of bank 1: the bank's byte counts, the cabinet's does not. -/
theorem test_credit_bank_source :
    after .credit { State.reset with
        cfg := { Cfg.ref with sigSrc := #v[.cab, .bank 1, .cab] }, prev := #v[false, false, false], cabLatch := 0x04,
        bank := #v[0, 0x08, 0, 0] }
      (·.prev) = some #v[true, true, false] := by decide +kernel

/-- S7, slot 3 after slot 2 engaged. -/
theorem test_lock_override :
    after .lock { cells [(0xC08, 0xFF), (0xC09, 9)] with lockout := true } (fun t => (t.lockout, t.trace, t.shared.get 0xC08)) =
      some (false, [(.lockout, false)], 0xFF) := by decide +kernel

/-- V-LOCK-2. -/
theorem test_lock_other_value : after .lock (cells [(0xC08, 0x02)]) (·.trace) = some [] := by decide +kernel

theorem test_lockEngage : after .lockEngage State.reset (·.lockout) = some true := by decide +kernel
theorem test_lockDisengage : after .lockDisengage { State.reset with lockout := true } (·.lockout) = some false := by
  decide +kernel

/-! ### Controllers -/

/-- V-CTRL-1: `0x3E & 3`. -/
theorem test_ctrl0_derive :
    after .ctrl0 { cells [(0xC10, 0x01)] with bank := #v[0x3E, 0, 0, 0] }
      (fun t => (t.ctrlCache, [0xC11, 0xC10].map t.shared.get)) = some (#v[2, 0, 0], [2, 0]) := by decide +kernel

/-- V-CTRL-12. -/
theorem test_ctrl0_unmapped :
    after .ctrl0 (cells [(0xC10, 0x03)]) (fun t => (t.status, t.pc, t.shared.get 0xC10)) =
      some (.refused (.unmappedCommand 0 3), .slot 4, 3) := by decide +kernel

/-- V-CTRL-14. -/
theorem test_ctrl1_poisoned :
    after .ctrl1 { cells [(0xC0B, 0x42), (0xC13, 5)] with ctrlCache := #v[0, 4, 0] } (fun t => (t.status, t.pc)) =
      some (.poisoned 1, .slot 5) := by decide +kernel

theorem test_ctrl1_dec : cellsAfter .ctrl1 (cells [(0xC12, 0x04)]) [0xC13, 0xC12] = some [0xFF, 0] := by decide +kernel

/-- V-CTRL-9. -/
theorem test_ctrl2_set65 :
    after .ctrl2 (cells [(0xC14, 0x40)]) (fun t => (t.ctrlCache, [0xC15, 0xC14].map t.shared.get)) =
      some (#v[0, 0, 0x65], [0x65, 0]) := by decide +kernel

/-- V-CTRL-11. -/
theorem test_ctrl2_unmapped :
    after .ctrl2 (cells [(0xC14, 0x80)]) (fun t => (t.status, t.shared.get 0xC14)) =
      some (.refused (.unmappedCommand 2 0x80), 0x80) := by decide +kernel

/-- V-CTRL-13. -/
theorem test_ctrlIdle_no_marker :
    after (.ctrlIdle 0) { cells [(0xC11, 5)] with ctrlCache := #v[4, 0, 0] } (fun t => (t.status, t.pc)) =
      some (.running, .slot 5) := by decide +kernel

theorem test_ctrlIdle_marker :
    after (.ctrlIdle 2) { cells [(0xC0B, 0x42), (0xC15, 0x0D)] with ctrlCache := #v[0, 0, 12] } (·.status) =
      some (.poisoned 2) := by decide +kernel

theorem test_diagGate_equal : after (.diagGate 1) (cells []) (fun t => (t.status, t.pc)) = some (.running, .slot 6) := by
  decide +kernel
theorem test_diagGate_differs : after (.diagGate 0) (cells [(0xC11, 5)]) (·.status) = some (.poisoned 0) := by decide +kernel

theorem test_ctrl0Derive : cellsAfter .ctrl0Derive { State.reset with bank := #v[0x3E, 0, 0, 0] } [0xC11] = some [2] := by
  decide +kernel
/-- V-CTRL-3 and V-CTRL-4: the clamp. -/
theorem test_ctrl0Inc_clamp :
    cellsAfter .ctrl0Inc { State.reset with ctrlCache := #v[9, 0, 0] } [0xC11] = some [9] ∧
    cellsAfter .ctrl0Inc { State.reset with ctrlCache := #v[200, 0, 0] } [0xC11] = some [9] := by decide +kernel
/-- V-CTRL-7: the operand is the register. -/
theorem test_ctrl0Inc_cache :
    cellsAfter .ctrl0Inc { cells [(0xC11, 7)] with ctrlCache := #v[3, 0, 0] } [0xC11] = some [4] := by decide +kernel
/-- V-CTRL-5: no clamp downwards. -/
theorem test_ctrl0Dec : after .ctrl0Dec State.reset (·.ctrlCache) = some #v[255, 0, 0] := by decide +kernel
/-- V-CTRL-6. -/
theorem test_ctrl0SetMax : after .ctrl0SetMax State.reset (fun t => (t.ctrlCache, t.shared.get 0xC11)) = some (#v[9, 0, 0], 9) := by
  decide +kernel
theorem test_ctrl1Derive : cellsAfter .ctrl1Derive { State.reset with bank := #v[0x07, 0, 0, 0] } [0xC13] = some [3] := by
  decide +kernel
theorem test_ctrl1Inc : after .ctrl1Inc { State.reset with ctrlCache := #v[0, 8, 0] } (·.ctrlCache) = some #v[0, 9, 0] := by
  decide +kernel
theorem test_ctrl1Dec : after .ctrl1Dec { State.reset with ctrlCache := #v[0, 8, 0] } (·.ctrlCache) = some #v[0, 7, 0] := by
  decide +kernel
theorem test_ctrl1SetMax : cellsAfter .ctrl1SetMax State.reset [0xC13] = some [9] := by decide +kernel
/-- V-CTRL-8. -/
theorem test_ctrl2Inc : cellsAfter .ctrl2Inc { State.reset with ctrlCache := #v[0, 0, 0xFF] } [0xC15] = some [0xFF] := by
  decide +kernel
/-- V-CTRL-10. -/
theorem test_ctrl2Set00 : after .ctrl2Set00 { State.reset with ctrlCache := #v[0, 0, 7] } (·.ctrlCache) = some #v[0, 0, 0] := by
  decide +kernel
/-- The amount of the target "+1" is a constant of the configuration (rule R5). -/
theorem test_ctrl2Inc_amount :
    cellsAfter .ctrl2Inc { State.reset with cfg := { Cfg.ref with levelTargets := { Cfg.ref.levelTargets with plus := 3 } } }
      [0xC15] = some [3] := by decide +kernel
theorem test_ctrl2Set31 : cellsAfter .ctrl2Set31 State.reset [0xC15] = some [0x31] := by decide +kernel
theorem test_ctrl2Set62 : cellsAfter .ctrl2Set62 State.reset [0xC15] = some [0x62] := by decide +kernel
theorem test_ctrl2Set63 : cellsAfter .ctrl2Set63 State.reset [0xC15] = some [0x63] := by decide +kernel
theorem test_ctrl2Set64 : cellsAfter .ctrl2Set64 State.reset [0xC15] = some [0x64] := by decide +kernel
theorem test_ctrl2Set65 : cellsAfter .ctrl2Set65 State.reset [0xC15] = some [0x65] := by decide +kernel

/-! ### Beastie relays -/

/-- S5: beastie 0 overlaps in Y only, beastie 1 in X only; beastie 2 is live behind them. -/
def defect : State :=
  cells [(0xC40, 0x01), (0xC41, 0x64), (0xC42, 0x64), (0xC50, 0x01), (0xC51, 0x67), (0xC52, 0x96), (0xC53, 0x01),
    (0xC54, 0x32), (0xC55, 0x61), (0xC56, 0x01), (0xC88, 0xEE), (0xC8B, 0xEE)]

theorem test_beast0_defect :
    cellsAfter .beast0 defect [0xC80, 0xC81, 0xC82, 0xC83, 0xC84, 0xC85, 0xC86, 0xC87, 0xC43, 0xC44, 0xC88, 0xC8B] =
      some [0x01, 0x01, 0x03, 0x32, 0x02, 0x02, 0x32, 0x03, 0x01, 0x01, 0xEE, 0xEE] := by decide +kernel

/-- S4: a distance of 8 is no overlap, 7 is one. -/
theorem test_beast0_boundary :
    after .beast0 (cells [(0xC40, 1), (0xC41, 5), (0xC50, 1), (0xC51, 0x0D), (0xC52, 0xC8)])
      (fun t => (t.yOverlap, t.beastIdx, [0xC80, 0xC81, 0xC82, 0xC83, 0xC43].map t.shared.get)) =
      some (0, 6, [1, 1, 8, 0xC8, 0]) ∧
    after .beast0 (cells [(0xC40, 1), (0xC41, 5), (0xC50, 1), (0xC51, 0x0C), (0xC52, 0xC8)])
      (fun t => (t.yOverlap, t.shared.get 0xC82)) = some (1, 7) := by decide +kernel

/-- V-BEAST-6. -/
theorem test_beast1_kill :
    after .beast1 (cells [(0xC48, 1), (0xC49, 10), (0xC4A, 10), (0xC59, 1), (0xC5A, 10), (0xC5B, 10)])
      (fun t => (t.beastIdx, [0xCAC, 0xCAE, 0xC4B, 0xC4C].map t.shared.get)) = some (3, [0, 0, 1, 3]) := by decide +kernel

/-- V-BEAST-1, for player 1. -/
theorem test_beast1_dead : after .beast1 (cells [(0xC50, 1)]) id = some { cells [(0xC50, 1)] with pc := .slot 9 } := by
  decide +kernel

/-! ### Creepers -/

/-- V-CREEP-1, tick 11: the cursor stands on the sentinel. -/
theorem test_creep0_boundary :
    after .creep0 { cells [(0xC20, 7)] with creepIdx := #v[10, 0, 0, 0] } (fun t => (t.creepTable, t.creepIdx, t.shared.get 0xC24)) =
      some (#v[7, 0, 0, 0], #v[1, 0, 0, 0], 0) := by decide +kernel

/-- V-CREEP-5. -/
theorem test_creep1_emit :
    after .creep1 { State.reset with creepTable := #v[0, 40, 0, 0] } (fun t => (t.creepIdx, t.shared.get 0xC25)) =
      some (#v[0, 1, 0, 0], 4) := by decide +kernel

/-- V-CREEP-3: the bad selector is latched, then refused. -/
theorem test_creep2_refused :
    after .creep2 { cells [(0xC22, 41)] with creepIdx := #v[1, 1, 10, 0] } (fun t => (t.status, t.creepTable, t.creepIdx, t.pc)) =
      some (.refused (.creeperSelector 2 41), #v[0, 0, 41, 0], #v[1, 1, 10, 0], .slot 11) := by decide +kernel

/-- V-CREEP-4: a bad selector is not looked at before a boundary. -/
theorem test_creep2_not_sampled :
    after .creep2 { cells [(0xC22, 41)] with creepTable := #v[0, 0, 3, 0], creepIdx := #v[0, 0, 4, 0] }
      (fun t => (t.status, t.creepIdx)) = some (.running, #v[0, 0, 5, 0]) := by decide +kernel

/-- V-CREEP-2's table 25, entry 1. -/
theorem test_creep3_emit :
    after .creep3 { State.reset with creepTable := #v[0, 0, 0, 25], creepIdx := #v[0, 0, 0, 1] } (fun t => t.shared.get 0xC27) =
      some 3 := by decide +kernel

/-! ### Clock, mischief, extend -/

/-- S8. -/
theorem test_clock_done :
    cellsAfter .clock (cells [(0xC18, 1), (0xC1A, 1)]) [0xC18, 0xC19, 0xC1A, 0xC1B] = some [0, 0, 1, 1] := by decide +kernel

/-- V-CLK-2 and V-CLK-3: the borrow, and the wrap of a count of 0. -/
theorem test_clock_borrow :
    cellsAfter .clock (cells [(0xC18, 1), (0xC19, 1)]) [0xC18, 0xC19, 0xC1A, 0xC1B] = some [1, 0, 0xFF, 0] ∧
    cellsAfter .clock (cells [(0xC18, 1)]) [0xC18, 0xC19, 0xC1A, 0xC1B] = some [1, 0xFF, 0xFF, 0] := by decide +kernel

/-- V-MIS-1. -/
theorem test_mischief :
    cellsAfter .mischief { cells [(0xC0C, 0x0D), (0xC09, 3)] with ctrlCache := #v[0, 0, 0x0C] } [0xC09, 0xC0A] = some [0x2A, 0] := by
  decide +kernel

/-- V-MIS-2, V-MIS-3. -/
theorem test_mischief_not :
    cellsAfter .mischief { cells [(0xC0C, 0x0D), (0xC09, 3)] with ctrlCache := #v[0, 0, 0x0D] } [0xC09] = some [3] ∧
    cellsAfter .mischief { cells [(0xC0C, 0x0C), (0xC09, 3)] with ctrlCache := #v[0, 0, 0x0C] } [0xC09] = some [3] := by
  decide +kernel

theorem test_mischiefEn : cellsAfter .mischiefEn { State.reset with ctrlCache := #v[0, 0, 0x0C] } [0xC09] = some [42] := by
  decide +kernel

/-- V-EXT-1, V-EXT-2. -/
theorem test_extend_rotates :
    cellsAfter .extend (cells [(0xC0D, 4)]) [0xC0D] = some [5] ∧ cellsAfter .extend (cells [(0xC0D, 5)]) [0xC0D] = some [0] := by
  decide +kernel

/-- V-EXT-3. -/
theorem test_extend_out_of_range :
    cellsAfter .extend (cells [(0xC0D, 6)]) [0xC0D] = some [7] ∧ cellsAfter .extend (cells [(0xC0D, 0xFF)]) [0xC0D] = some [0] := by
  decide +kernel

/-! ### Translators -/

/-- S2. -/
theorem test_xlat0_fires :
    cellsAfter .xlat0 (cells [(0xC30, 1), (0xC31, 2), (0xC32, 0x10), (0xC33, 5)]) [0xD05, 0xC30, 0xC31, 0xC32, 0xC33] =
      some [0x12, 0xFF, 2, 0x10, 5] := by decide +kernel

theorem test_xlat0_idle : cellsAfter .xlat0 (cells [(0xC31, 2), (0xC32, 0x10), (0xC33, 5)]) [0xD05, 0xC30] = some [0, 0] := by
  decide +kernel

/-- V-XL-1. -/
theorem test_xlat1_largest_offset :
    cellsAfter .xlat1 (cells [(0xC34, 1), (0xC36, 0xAB), (0xC37, 0xFF)]) [0xEFF, 0xC34] = some [0xAB, 0xFF] := by decide +kernel

/-- V-XL-5. -/
theorem test_xlat1_refused :
    after .xlat1 (cells [(0xC34, 1), (0xC35, 5)]) (fun t => (t.status, t.pc, t.shared.get 0xC34)) =
      some (.refused (.translatorTable 1 5), .slot 17, 1) := by decide +kernel

/-- V-XL-6. -/
theorem test_xlat2_top_cell :
    cellsAfter .xlat2 (cells [(0xC38, 1), (0xC39, 4), (0xC3A, 0xFF), (0xC3B, 0xFF)]) [0xFFF, 0xC38] = some [3, 0xFF] := by
  decide +kernel

/-- V-XL-2. -/
theorem test_xlatArm :
    cellsAfter (.xlatArm 2) (cells [(0xC39, 4), (0xC3A, 0xFE)]) [0xF00, 0xC38] = some [2, 0xFF] := by decide +kernel

/-- V-XL-3. -/
theorem test_xlatDone :
    after (.xlatDone 1) (cells [(0xC34, 0xFF)]) id = some { cells [(0xC34, 0xFF)] with pc := .slot 18 } := by decide +kernel

/-! ### Reset watcher, delay check -/

/-- V-RST-1. -/
theorem test_rstw_restart :
    after .rstw { cells [(0xC06, 0x4A), (0xC11, 9)] with ctrlCache := #v[9, 0, 0], lockout := true } id = some State.reset := by
  decide +kernel

/-- V-RST-3. -/
theorem test_rstw_no_trigger : after .rstw (cells [(0xC06, 0x4B)]) (fun t => (t.pc, t.shared.get 0xC06)) = some (.slot 20, 0x4B) := by
  decide +kernel

/-- V-RST-2: with `RESET_ZEROES_SHARED` false the cells are kept. -/
theorem test_rstWarm_keeps :
    after .rstWarm { cells [(0xC06, 0x4A), (0xC11, 9)] with cfg := { Cfg.ref with resetZeroesShared := false }, ctrlCache := #v[9, 0, 0] }
      (fun t => (t.ctrlCache, t.pc, [0xC06, 0xC11].map t.shared.get)) = some (#v[0, 0, 0], .idle, [0x4A, 9]) := by decide +kernel

/-- V-DELAY-1, V-DELAY-2. -/
theorem test_delay :
    after .delay (cells [(0xC07, 1)]) id = some { cells [(0xC07, 1)] with pc := .idle } ∧
    after .delay (cells []) id = some { cells [] with pc := .idle } := by decide +kernel

theorem test_delayMark : after .delayMark (cells []) id = some { cells [] with pc := .idle } := by decide +kernel

/-! ### Host script -/

theorem test_hw : cellsAfter (.hw 0xFFF 0x12) State.reset [0xFFF, 0xFFE] = some [0x12, 0] := by decide +kernel
theorem test_hr : after (.hr 0xC05 0x00) (cells [(0xC05, 0x47)]) (·.hostReads) = some [⟨0xC05, 0x47, 0⟩] := by decide +kernel
theorem test_inp : after (.inp 3 0x20) State.reset (·.heldBank) = some #v[none, none, none, some 0x20] := by decide +kernel
theorem test_cab : after (.cab 0x04) State.reset (·.heldCab) = some (some 0x04) := by decide +kernel
theorem test_tick : after .tick State.reset id = some { State.reset with pc := .slot 0 } := by decide +kernel
/-- R207: in a terminal status the trigger is ignored. -/
theorem test_tick_terminal :
    after .tick { State.reset with status := .poisoned 2, pc := .slot 6 } id =
      some { State.reset with status := .poisoned 2, pc := .slot 6 } := by decide +kernel
theorem test_reset :
    after .reset { cells [(0xC05, 0x47)] with status := .poisoned 2, pc := .slot 6, creepIdx := #v[5, 5, 5, 5] } id =
      some State.reset := by decide +kernel

/-! ### Witnesses: states that meet the hypotheses of the statements -/

theorem ref_valid : Cfg.ref.Valid :=
  ⟨by decide +kernel, by decide +kernel, by decide +kernel, by decide +kernel, by decide +kernel⟩

theorem cells_ready (l : List (Nat × Byte)) : (cells l).Quiet ∧ (cells l).cfg.Valid := ⟨⟨rfl, .inl rfl⟩, ref_valid⟩

/-- A state in which a tick stands at slot `n`. -/
def atSlot (n : Fin 21) (s : State) : State := { s with pc := .slot n }

/-- Inside a tick there is always a next state. -/
theorem step_at_slot (s : State) (n : Fin 21) : ∃ t, step { s with status := .running, pc := .slot n } = .next t := by
  fin_cases n <;> exact runSlot_next _ _ _

theorem witness_DecodeOfEncode :
    Cfg.ref.MapsOneHot ∧ Cfg.ref.vLockEngage ≠ Cfg.ref.vLockDisengage ∧ Cfg.ref.vXlArmed ≠ Cfg.ref.vXlDone := by
  decide +kernel

theorem witness_EncodeOfDecode :
    decode Cfg.ref (.slot 20) = .ok .delay ∧ decode Cfg.ref (.cmd (.ctrlCmd 2) 0x40) = .ok .ctrl2Set65 ∧
    decode Cfg.ref (.script [0x57, 0xFF, 0xFF, 0xFF]) = .ok (.hw 0xFFFF 0xFF) := by decide

theorem witness_ScriptLineFirst :
    encode Cfg.ref (.inp 3 0xFF) = .script [0x49, 0x03, 0xFF] ∧ encode Cfg.ref .reset = .script [0x58] := by decide

theorem witness_StepRunsSlot :
    (atSlot 0 State.reset).status = .running ∧ (atSlot 0 State.reset).pc = .slot 0 ∧
    decode (atSlot 0 State.reset).cfg (.slot (BitVec.ofNat 5 0)) = .ok .irq ∧
    (atSlot 20 State.reset).status = .running ∧ (atSlot 20 State.reset).pc = .slot 20 ∧
    decode (atSlot 20 State.reset).cfg (.slot (BitVec.ofNat 5 20)) = .ok .delay := ⟨rfl, rfl, rfl, rfl, rfl, rfl⟩

theorem witness_StepRunsScriptLine :
    (let s : State := { State.reset with script := [0x43, 0x04] ++ [0x54] }
     s.pc = .idle ∧ decode s.cfg (.script [0x43, 0x04]) = .ok (.cab 4)) ∧
    (let s : State := { State.reset with status := .poisoned 2, pc := .slot 6, script := [0x58] ++ [] }
     s.status ≠ .running ∧ decode s.cfg (.script [0x58]) = .ok .reset) := by
  decide

theorem witness_StepFreeRuns :
    (State.reset.script = [] ∧ State.reset.status = .running ∧ State.reset.pc = .idle) ∧
    (let s : State := { State.reset with status := .faulted 4, pc := .slot 16 }
     s.script = [] ∧ s.status ≠ .running) := by
  decide

theorem witness_SlotRunsCommand :
    (∀ l, (cells l).Quiet ∧ (cells l).cfg.Valid) ∧
    decode Cfg.ref (.slot (BitVec.ofNat 5 (cellSlot .irqMarker).val)) = .ok .irq ∧
    decode Cfg.ref (.cmd .irqMarker ((cells [(0xC05, 0x47)]).shared.get (cellAddr Cfg.ref .irqMarker))) = .ok .irqReady ∧
    decode Cfg.ref (.slot (BitVec.ofNat 5 (cellSlot (.ctrlGate 2)).val)) = .ok .ctrl2 ∧
    decode Cfg.ref (.cmd (.ctrlGate 2) ((cells [(0xC0B, 0x42)]).shared.get (cellAddr Cfg.ref (.ctrlGate 2)))) =
      .ok (.diagGate 2) ∧
    (cells [(0xC0B, 0x42)]).shared.get Cfg.ref.aCtrlCmd[(2 : Fin 3)] = 0 :=
  ⟨cells_ready, by decide +kernel⟩

/-- Each clause at the values next to the one that has an operation. -/
theorem witness_ValuesWithoutOperation :
    (∀ l, (cells l).Quiet ∧ (cells l).cfg.Valid) ∧ Cfg.ref.D0Constants ∧
    (∀ v ∈ ([0x46, 0x48] : List Byte), (cells [(0xC05, v)]).shared.get Cfg.ref.aIrqMarker ≠ 0x47) ∧
    (∀ v ∈ ([0x00, 0x02, 0xFE] : List Byte), (cells [(0xC08, v)]).shared.get Cfg.ref.aLockCmd ≠ 0x01 ∧
      (cells [(0xC08, v)]).shared.get Cfg.ref.aLockCmd ≠ 0xFF) ∧
    (∀ v ∈ ([0x00, 0x02, 0xFF] : List Byte), (cells [(0xC34, v)]).shared.get Cfg.ref.aXlStatus[(1 : Fin 3)] ≠ 0x01) ∧
    (∀ v ∈ ([0x49, 0x4B] : List Byte), (cells [(0xC06, v)]).shared.get Cfg.ref.aResetCmd ≠ 0x4A) ∧
    (∀ v ∈ ([0x0C, 0x0E] : List Byte), (cells [(0xC0C, v)]).shared.get Cfg.ref.aMischiefEn ≠ 0x0D) ∧
    (∀ v ∈ ([0x41, 0x43] : List Byte), (cells [(0xC0B, v)]).shared.get Cfg.ref.aCtrlCmd[(0 : Fin 3)] = 0 ∧
      (cells [(0xC0B, v)]).shared.get Cfg.ref.aCtrlGate[(0 : Fin 3)] ≠ 0x42) ∧
    (cells []).shared.get Cfg.ref.aClkActive = 0 :=
  ⟨cells_ready, by decide +kernel⟩

theorem witness_IrqSlot :
    (∀ l, (cells l).Quiet ∧ (cells l).cfg.Valid) ∧
    (cells [(0xC05, 0x47)]).shared.get Cfg.ref.aIrqMarker = Cfg.ref.vIrqReady ∧
    (cells [(0xC05, 0x46)]).shared.get Cfg.ref.aIrqMarker ≠ Cfg.ref.vIrqReady :=
  ⟨cells_ready, by decide +kernel⟩

/-- Held inputs, and inputs that no script line holds. -/
theorem witness_InputRelay :
    relayIn.Quiet ∧ relayIn.cfg.Valid ∧ relayIn.heldCab = some 0xFB ∧ relayIn.heldBank[(3 : Fin 4)] = some 0x80 ∧
    State.reset.Quiet ∧ State.reset.heldCab = none :=
  ⟨⟨rfl, .inl rfl⟩, ref_valid, rfl, rfl, ⟨rfl, .inl rfl⟩, rfl⟩

/-- Nothing falls and the phony counter holds `v`. -/
def counted (v : Byte) : State := cells [(0xC09, v)]

theorem not_fell (s : State) (h : s.prev = #v[false, false, false]) (j : Fin 3) : ¬ s.Fell j := by
  unfold State.Fell
  rw [h]
  fin_cases j <;> simp

theorem ledgerAfterLines_of_quiet_lines (s : State) (h : s.prev = #v[false, false, false]) : s.ledgerAfterLines = s.ledger := by
  have hf := not_fell s h
  simp [State.ledgerAfterLines, State.ledgerAfterCoins, State.ledgerAfterCoinA, State.ServiceAtCeiling, hf]

/-- The service line falls and the phony counter holds `v`. -/
def serviced (v : Byte) : State := { counted v with prev := #v[false, false, true] }

theorem serviced_coins (v : Byte) : (serviced v).ledgerAfterCoins = (serviced v).ledger := by
  have ha : ¬ (serviced v).Fell 0 := fun h => absurd h.1 (by simp [serviced])
  have hb : ¬ (serviced v).Fell 1 := fun h => absurd h.1 (by simp [serviced])
  simp [State.ledgerAfterCoins, State.ledgerAfterCoinA, ha, hb]

/-- The service line at the ceiling, the service line one below it, and the threshold on both sides of the ceiling. -/
theorem witness_CreditSlot :
    (serviced 9).Quiet ∧ (serviced 9).cfg.Valid ∧ (serviced 9).ServiceAtCeiling ∧ ¬ (serviced 8).ServiceAtCeiling ∧
    (counted 9).cfg.creditCeiling ≤ (counted 9).ledgerAfterLines.phony ∧
    ¬ (counted 8).cfg.creditCeiling ≤ (counted 8).ledgerAfterLines.phony := by
  refine ⟨⟨rfl, .inl rfl⟩, ref_valid, ⟨⟨rfl, rfl⟩, ?_⟩, ?_, ?_, ?_⟩
  · rw [serviced_coins]; decide +kernel
  · rintro ⟨-, h⟩
    rw [serviced_coins] at h
    exact absurd h (by decide +kernel)
  · rw [ledgerAfterLines_of_quiet_lines _ rfl]; decide +kernel
  · rw [ledgerAfterLines_of_quiet_lines _ rfl]; decide +kernel

/-- S6: line A needs two coins for one credit. -/
def twoCoins : State := { State.reset with bank := #v[0x20, 0, 0, 0], prev := #v[true, false, false] }

theorem witness_TwoCoinsOneCredit :
    twoCoins.Quiet ∧ twoCoins.cfg.Valid ∧ (twoCoins.linePrice 0).need = 2 ∧ twoCoins.partialCoins[0] = 0 ∧
    twoCoins.Fell 0 ∧ ¬ twoCoins.Fell 1 ∧ ¬ twoCoins.Fell 2 ∧ ∃ t, exec .credit twoCoins = .next t :=
  ⟨⟨rfl, .inl rfl⟩, ref_valid, by decide +kernel, rfl, ⟨rfl, rfl⟩, fun h => absurd h.1 (by decide),
    fun h => absurd h.1 (by decide), runSlot_next 2 creditOp twoCoins⟩

theorem witness_LockSlot :
    (∀ l, (cells l).Quiet ∧ (cells l).cfg.Valid) ∧ Cfg.ref.vLockEngage ≠ Cfg.ref.vLockDisengage ∧
    (cells [(0xC08, 0x01)]).shared.get Cfg.ref.aLockCmd = Cfg.ref.vLockEngage ∧
    (cells [(0xC08, 0xFF)]).shared.get Cfg.ref.aLockCmd = Cfg.ref.vLockDisengage ∧
    ∀ v ∈ ([0x00, 0x02, 0xFE] : List Byte), (cells [(0xC08, v)]).shared.get Cfg.ref.aLockCmd ≠ Cfg.ref.vLockEngage ∧
      (cells [(0xC08, v)]).shared.get Cfg.ref.aLockCmd ≠ Cfg.ref.vLockDisengage :=
  ⟨cells_ready, by decide +kernel⟩

/-- A thrash in each direction: phony 9 against "disengage", phony 8 against "engage". -/
def thrash (v c : Byte) : State := atSlot 2 (cells [(0xC09, v), (0xC08, c)])

theorem witness_LockoutThrash :
    (thrash 9 0xFF).Quiet ∧ (thrash 9 0xFF).cfg.Valid ∧ Cfg.ref.vLockEngage ≠ Cfg.ref.vLockDisengage ∧
    (thrash 9 0xFF).status = .running ∧ (thrash 9 0xFF).pc = .slot 2 ∧
    ((thrash 9 0xFF).cfg.creditCeiling ≤ (thrash 9 0xFF).ledgerAfterLines.phony ↔ true = true) ∧
    (thrash 9 0xFF).shared.get Cfg.ref.aLockCmd = Cfg.ref.vLockDisengage ∧
    ((thrash 8 0x01).cfg.creditCeiling ≤ (thrash 8 0x01).ledgerAfterLines.phony ↔ false = true) ∧
    (thrash 8 0x01).shared.get Cfg.ref.aLockCmd = Cfg.ref.vLockEngage := by
  rw [ledgerAfterLines_of_quiet_lines _ rfl, ledgerAfterLines_of_quiet_lines _ rfl]
  exact ⟨⟨rfl, .inl rfl⟩, ref_valid, by decide +kernel⟩

/-- The first and the last operation of each map. -/
theorem witness_ControllerServes :
    (∀ l, (cells l).Quiet ∧ (cells l).cfg.Valid) ∧
    ((0 : Fin 2).castSucc, Instr.ctrl0, (4 : Fin 21)) ∈ controllerSlots ∧
    (cells [(0xC10, 0x01)]).shared.get Cfg.ref.aCtrlCmd[(0 : Fin 2).castSucc] = Cfg.ref.creditMap[(0 : Fin 2)].byteOf .derive ∧
    ((1 : Fin 2).castSucc, Instr.ctrl1, (5 : Fin 21)) ∈ controllerSlots ∧
    (cells [(0xC12, 0x08)]).shared.get Cfg.ref.aCtrlCmd[(1 : Fin 2).castSucc] = Cfg.ref.creditMap[(1 : Fin 2)].byteOf .setMax ∧
    (cells [(0xC14, 0x01)]).shared.get Cfg.ref.aCtrlCmd[(2 : Fin 3)] = Cfg.ref.levelMap.byteOf .set00 ∧
    (cells [(0xC14, 0x40)]).shared.get Cfg.ref.aCtrlCmd[(2 : Fin 3)] = Cfg.ref.levelMap.byteOf .set65 :=
  ⟨cells_ready, by decide +kernel⟩

/-- Marker and mismatch, marker without mismatch, mismatch without marker. -/
theorem witness_ControllerIdle :
    (∀ l, (cells l).Quiet ∧ (cells l).cfg.Valid) ∧ ((2 : Fin 3), Instr.ctrl2, (6 : Fin 21)) ∈ controllerSlots ∧
    (let s := cells [(0xC0B, 0x42), (0xC15, 1)]
     s.shared.get Cfg.ref.aCtrlCmd[(2 : Fin 3)] = 0 ∧ s.shared.get Cfg.ref.aCtrlGate[(2 : Fin 3)] = Cfg.ref.vDiag ∧
     s.shared.get Cfg.ref.aCtrlOut[(2 : Fin 3)] ≠ s.ctrlCache[(2 : Fin 3)]) ∧
    (let s := cells [(0xC0B, 0x42)]
     s.shared.get Cfg.ref.aCtrlGate[(2 : Fin 3)] = Cfg.ref.vDiag ∧
     s.shared.get Cfg.ref.aCtrlOut[(2 : Fin 3)] = s.ctrlCache[(2 : Fin 3)]) ∧
    (cells [(0xC0B, 0x41), (0xC15, 1)]).shared.get Cfg.ref.aCtrlGate[(2 : Fin 3)] ≠ Cfg.ref.vDiag :=
  ⟨cells_ready, by decide +kernel⟩

/-- The one-hot bytes a map leaves out, and a byte with two bits set. -/
theorem witness_UnmappedCommandRefused :
    (∀ l, (cells l).Quiet ∧ (cells l).cfg.Valid) ∧ ((1 : Fin 2).castSucc, Instr.ctrl1, (5 : Fin 21)) ∈ controllerSlots ∧
    (∀ v ∈ ([0x10, 0x03] : List Byte), v ≠ 0 ∧ (cells [(0xC12, v)]).shared.get Cfg.ref.aCtrlCmd[(1 : Fin 2).castSucc] = v ∧
      v ∉ Cfg.ref.creditMap[(1 : Fin 2)].bytes) ∧
    ∀ v ∈ ([0x80, 0x03] : List Byte), v ≠ 0 ∧ (cells [(0xC14, v)]).shared.get Cfg.ref.aCtrlCmd[(2 : Fin 3)] = v ∧
      v ∉ Cfg.ref.levelMap.bytes :=
  ⟨cells_ready, by decide +kernel⟩

/-- `DeriveCommand`, `IncCommand`, `DecCommand`, `SetMaxCommand`, `SetCommands`, `DelaySlot`. -/
theorem witness_ready : State.reset.Quiet ∧ State.reset.cfg.Valid ∧ State.reset.cfg.D0Constants :=
  ⟨⟨rfl, .inl rfl⟩, ref_valid, by decide +kernel⟩

/-- Only the masked bit of the liveness cell counts: `0xFE` is not live. -/
theorem witness_BeastieGuard :
    (∀ l, (cells l).Quiet ∧ (cells l).cfg.Valid) ∧ ((1 : Fin 2), Instr.beast1, (8 : Fin 21)) ∈ beastieSlots ∧
    ¬ (cells [(0xC48, 0xFE)]).PlayerLive 1 ∧ ¬ (cells []).PlayerLive 0 := by
  refine ⟨cells_ready, by decide, ?_⟩
  unfold State.PlayerLive
  decide +kernel

/-- A sweep that a collision ends, and one that reaches the last beastie without one. -/
theorem witness_BeastieSweep :
    defect.Quiet ∧ defect.cfg.Valid ∧ ((0 : Fin 2), Instr.beast0, (7 : Fin 21)) ∈ beastieSlots ∧
    (defect.PlayerLive 0 ∧ defect.Reaches 0 1 ∧ defect.CollidesAt 0 1) ∧
    (let s := cells [(0xC40, 1), (0xC41, 100), (0xC42, 100), (0xC62, 1), (0xC63, 103), (0xC64, 150)]
     s.PlayerLive 0 ∧ s.BeastieLive 6 ∧ s.OverlapsY 0 6 ∧ ∀ i, ¬ s.CollidesAt 0 i) := by
  refine ⟨⟨rfl, .inl rfl⟩, ref_valid, by decide, ?_⟩
  unfold State.Reaches State.CollidesAt State.OverlapsY State.OverlapsX State.PlayerLive State.BeastieLive
  decide +kernel

/-- Two live beasties, `i` at Y-overlap only and `j` at X-overlap only, the player live at (100, 100). -/
def pair (i j : Nat) : State :=
  cells [(0xC40, 1), (0xC41, 100), (0xC42, 100), (0xC50 + 3 * i, 1), (0xC51 + 3 * i, 103), (0xC52 + 3 * i, 150),
    (0xC50 + 3 * j, 1), (0xC51 + 3 * j, 50), (0xC52 + 3 * j, 97)]

/-- S5 (the Y-only beastie first), and V-BEAST-3 (last), at the ends of the sweep. -/
theorem witness_CollisionDefect :
    (pair 0 6).Quiet ∧ (pair 0 6).cfg.Valid ∧ ((0 : Fin 2), Instr.beast0, (7 : Fin 21)) ∈ beastieSlots ∧
    ((pair 0 6).PlayerLive 0 ∧ (∀ j, (pair 0 6).BeastieLive j ↔ j = 0 ∨ j = 6) ∧ (pair 0 6).OverlapsY 0 0 ∧
      ¬ (pair 0 6).OverlapsX 0 0 ∧ (pair 0 6).OverlapsX 0 6 ∧ ¬ (pair 0 6).OverlapsY 0 6) ∧
    (pair 6 0).PlayerLive 0 ∧ (∀ j, (pair 6 0).BeastieLive j ↔ j = 6 ∨ j = 0) ∧ (pair 6 0).OverlapsY 0 6 ∧
      ¬ (pair 6 0).OverlapsX 0 6 ∧ (pair 6 0).OverlapsX 0 0 ∧ ¬ (pair 6 0).OverlapsY 0 0 := by
  refine ⟨⟨rfl, .inl rfl⟩, ref_valid, by decide, ?_⟩
  unfold State.OverlapsY State.OverlapsX State.PlayerLive State.BeastieLive
  decide +kernel

/-- U11 (rule R159): under `HOST_INTERLEAVE` the liveness is cleared just before the re-check; no kill, and beastie 1 behind it
has fresh outputs. -/
theorem test_beast0_recheck_fails :
    cellsAfter .beast0
      { cells [(0xC40, 1), (0xC41, 10), (0xC42, 10), (0xC50, 1), (0xC51, 10), (0xC52, 10), (0xC53, 1), (0xC54, 20), (0xC55, 30)]
        with cfg := { Cfg.ref with hostInterleave := true }, hostRace := List.replicate 10 [] ++ [[⟨0x40, 0⟩]] }
      [0xC43, 0xC44, 0xC86, 0xC87, 0xC40] = some [0, 0, 10, 20, 0] := by decide +kernel

theorem witness_FailedRecheck : State.reset.Quiet ∧ State.reset.cfg.Valid ∧ ¬ State.reset.PlayerLive 0 := by
  refine ⟨⟨rfl, .inl rfl⟩, ref_valid, ?_⟩
  unfold State.PlayerLive
  decide +kernel

/-- Table 40, the first and the last entry. -/
theorem witness_CreeperEmits :
    State.reset.Quiet ∧ State.reset.cfg.Valid ∧ ((3 : Fin 4), Instr.creep3, (12 : Fin 21)) ∈ creeperSlots ∧
    ∀ i ∈ ([0, 9] : List Byte), (let s : State := { State.reset with creepTable := #v[0, 0, 0, 40], creepIdx := #v[0, 0, 0, i] }
      s.cfg.creepTables[s.creepTable[(3 : Fin 4)].toNat]? = some [4, 4, 4, 4, 4, 4, 4, 4, 4, 4] ∧
      ([4, 4, 4, 4, 4, 4, 4, 4, 4, 4] : List Byte)[s.creepIdx[(3 : Fin 4)].toNat]? = some 4) :=
  ⟨⟨rfl, .inl rfl⟩, ref_valid, by decide +kernel⟩

/-- The cursor on the sentinel and the largest selector. -/
theorem witness_CreeperBoundary :
    (∀ l, (cells l).Quiet ∧ (cells l).cfg.Valid) ∧ ((0 : Fin 4), Instr.creep0, (9 : Fin 21)) ∈ creeperSlots ∧
    (let s : State := { cells [(0xC20, 40)] with creepIdx := #v[10, 0, 0, 0] }
     s.cfg.creepTables[s.creepTable[(0 : Fin 4)].toNat]? = some [0, 0, 0, 0, 0, 0, 0, 0, 0, 0] ∧
     s.creepIdx[(0 : Fin 4)].toNat = ([0, 0, 0, 0, 0, 0, 0, 0, 0, 0] : List Byte).length ∧
     s.cfg.creepTables[(s.shared.get s.cfg.aCreepSel[(0 : Fin 4)]).toNat]? = some [4, 4, 4, 4, 4, 4, 4, 4, 4, 4] ∧
     ([4, 4, 4, 4, 4, 4, 4, 4, 4, 4] : List Byte)[0]? = some 4) :=
  ⟨cells_ready, by decide +kernel⟩

/-- Two cycles of table 25, from the sentinel of table 0: creeper 0 before and after its slot in each of 20 ticks. -/
def creeping (j : Nat) : State :=
  { cells [(0xC20, 25)] with
    creepTable := if j = 0 then #v[0, 0, 0, 0] else #v[25, 0, 0, 0]
    creepIdx := if j = 0 then #v[10, 0, 0, 0] else #v[BitVec.ofNat 8 ((j - 1) % 10 + 1), 0, 0, 0] }

def crept (j : Nat) : State :=
  match exec .creep0 (creeping j) with
  | .next t => t
  | _ => creeping j

theorem creeping_kept : ∀ j < 19, (creeping (j + 1)).creepTable[(0 : Fin 4)] = (crept j).creepTable[(0 : Fin 4)] ∧
    (creeping (j + 1)).creepIdx[(0 : Fin 4)] = (crept j).creepIdx[(0 : Fin 4)] := by decide +kernel

theorem witness_CreeperBoundary_mean :
    Cfg.ref.Valid ∧ Cfg.ref.CreeperMeanExact ∧ ((0 : Fin 4), Instr.creep0, (9 : Fin 21)) ∈ creeperSlots ∧
    Cfg.ref.creepTables[(25 : Byte).toNat]? = some [2, 3, 2, 3, 2, 3, 2, 3, 2, 3] ∧ (creeping 0).cfg = Cfg.ref ∧
    (creeping 0).CycleBegins 0 25 ∧ CreeperTicks 0 .creep0 25 20 creeping crept ∧
    ({ creeping 1 with creepIdx := #v[0, 0, 0, 0] } : State).CycleBegins 0 25 := by
  refine ⟨ref_valid, by decide +kernel, by decide, by decide +kernel, rfl,
    .inl ⟨[0, 0, 0, 0, 0, 0, 0, 0, 0, 0], by decide +kernel⟩,
    ⟨fun _ _ => ⟨rfl, .inl rfl⟩, fun _ _ => rfl, fun _ _ => ?_, fun j _ => ?_, fun j hj => creeping_kept j (by omega)⟩,
    .inr ⟨rfl, rfl⟩⟩
  · show (cells [(0xC20, 25)]).shared.get _ = _
    decide +kernel
  · obtain ⟨t, h⟩ : ∃ t, exec .creep0 (creeping j) = .next t := runSlot_next 9 (creeper 0) (creeping j)
    rw [crept, h]

/-- The smallest selector without a table, latched already and about to be latched. -/
theorem witness_CreeperSelectorRefused :
    (∀ l, (cells l).Quiet ∧ (cells l).cfg.Valid) ∧ ((2 : Fin 4), Instr.creep2, (11 : Fin 21)) ∈ creeperSlots ∧
    40 < ({ State.reset with creepTable := #v[0, 0, 41, 0] } : State).creepTable[(2 : Fin 4)].toNat ∧
    (let s : State := { cells [(0xC22, 41)] with creepIdx := #v[0, 0, 10, 0] }
     s.cfg.creepTables[s.creepTable[(2 : Fin 4)].toNat]? = some [0, 0, 0, 0, 0, 0, 0, 0, 0, 0] ∧
     s.creepIdx[(2 : Fin 4)].toNat = 10 ∧ 40 < (s.shared.get s.cfg.aCreepSel[(2 : Fin 4)]).toNat) :=
  ⟨cells_ready, by decide +kernel⟩

/-- Inactive, and active with the counts 1, 0, 2 and 65535. -/
theorem witness_ClockSlot :
    (∀ l, (cells l).Quiet ∧ (cells l).cfg.Valid) ∧ (cells []).shared.get Cfg.ref.aClkActive = 0 ∧
    (cells [(0xC18, 1), (0xC1A, 1)]).shared.get Cfg.ref.aClkActive ≠ 0 ∧ (cells [(0xC18, 1), (0xC1A, 1)]).clockCount = 1 ∧
    (cells [(0xC18, 0x80)]).shared.get Cfg.ref.aClkActive ≠ 0 ∧ (cells [(0xC18, 0x80)]).clockCount = 0 ∧
    (cells [(0xC18, 1), (0xC1A, 2)]).clockCount = 2 ∧
    (cells [(0xC18, 1), (0xC19, 0xFF), (0xC1A, 0xFF)]).shared.get Cfg.ref.aClkActive ≠ 0 ∧
    (cells [(0xC18, 1), (0xC19, 0xFF), (0xC1A, 0xFF)]).clockCount = 65535 :=
  ⟨cells_ready, by decide +kernel⟩

/-- A countdown loaded with `n`, before the clock's slot in tick `j`; the extend cell changes between the ticks. -/
def counting (n j : Nat) : State :=
  cells [(0xC18, 0x80), (0xC19, BitVec.ofNat 8 ((n - j) / 256)), (0xC1A, BitVec.ofNat 8 (n - j)), (0xC0D, BitVec.ofNat 8 j)]

def ticked (s : State) : State :=
  match exec .clock s with
  | .next t => t
  | _ => s

theorem counting_kept : ∀ j < 256, SameClockCells (ticked (counting 257 j)) (counting 257 (j + 1)) := by
  unfold SameClockCells
  decide +kernel

/-- The shortest countdown, and one that borrows from the high byte. -/
theorem witness_ClockCompletes :
    Cfg.ref.Valid ∧ (∀ n, (counting n 0).cfg = Cfg.ref) ∧
    (∀ n ∈ [1, 257], (counting n 0).shared.get Cfg.ref.aClkActive ≠ 0 ∧ (counting n 0).clockCount = n ∧
      ClockTicks n (counting n)) := by
  refine ⟨ref_valid, fun _ => rfl, fun n hn => ⟨?_, ?_, fun _ _ => ⟨rfl, .inl rfl⟩, fun _ _ => rfl, fun j t hj ht => ?_⟩⟩
  · revert n; decide +kernel
  · revert n; decide +kernel
  · obtain rfl | rfl : n = 1 ∨ n = 257 := by simpa using hn
    · omega
    · have h : ticked (counting 257 j) = t := by rw [ticked, ht]
      exact h ▸ counting_kept j (by omega)

theorem witness_Mischief :
    (∀ l, (cells l).Quiet ∧ (cells l).cfg.Valid) ∧ (cells [(0xC0C, 0x0D)]).shared.get Cfg.ref.aMischiefEn = Cfg.ref.vMischiefEn ∧
    ({ cells [(0xC0C, 0x0D)] with ctrlCache := #v[0, 0, 0x0C] } : State).ctrlCache[(2 : Fin 3)] = Cfg.ref.vMischiefLevel ∧
    ({ cells [(0xC0C, 0x0D)] with ctrlCache := #v[0, 0, 0x0D] } : State).ctrlCache[(2 : Fin 3)] ≠ Cfg.ref.vMischiefLevel :=
  ⟨cells_ready, by decide +kernel⟩

/-- The ends of the two ranges of the extend cell. -/
theorem witness_ExtendSlot :
    (∀ l, (cells l).Quiet ∧ (cells l).cfg.Valid) ∧ Cfg.ref.D0Constants ∧
    (cells [(0xC0D, 5)]).shared.get Cfg.ref.aExtend = 5 ∧ (cells [(0xC0D, 6)]).shared.get Cfg.ref.aExtend = 6 ∧
    (cells [(0xC0D, 0xFF)]).shared.get Cfg.ref.aExtend = 0xFF :=
  ⟨cells_ready, by decide +kernel⟩

/-- The first and the last table selector, with the largest index and offset. -/
theorem witness_TranslatorFires :
    (∀ l, (cells l).Quiet ∧ (cells l).cfg.Valid) ∧ ((2 : Fin 3), Instr.xlat2, (18 : Fin 21)) ∈ translatorSlots ∧
    ∀ n ∈ ([0, 4] : List Byte), (let s := cells [(0xC38, 1), (0xC39, n), (0xC3A, 0xFF), (0xC3B, 0xFF)]
      s.shared.get Cfg.ref.aXlStatus[(2 : Fin 3)] = Cfg.ref.vXlArmed ∧ (s.shared.get Cfg.ref.aXlTable[(2 : Fin 3)]).toNat ≤ 4) :=
  ⟨cells_ready, by decide +kernel⟩

theorem witness_TranslatorIdle :
    (∀ l, (cells l).Quiet ∧ (cells l).cfg.Valid) ∧ ((0 : Fin 3), Instr.xlat0, (16 : Fin 21)) ∈ translatorSlots ∧
    ∀ v ∈ ([0x00, 0x02, 0xFF] : List Byte), (cells [(0xC30, v)]).shared.get Cfg.ref.aXlStatus[(0 : Fin 3)] ≠ Cfg.ref.vXlArmed :=
  ⟨cells_ready, by decide +kernel⟩

theorem witness_TranslatorTableRefused :
    (∀ l, (cells l).Quiet ∧ (cells l).cfg.Valid) ∧ ((1 : Fin 3), Instr.xlat1, (17 : Fin 21)) ∈ translatorSlots ∧
    (cells [(0xC34, 1), (0xC35, 5)]).shared.get Cfg.ref.aXlStatus[(1 : Fin 3)] = Cfg.ref.vXlArmed ∧
    4 < ((cells [(0xC34, 1), (0xC35, 5)]).shared.get Cfg.ref.aXlTable[(1 : Fin 3)]).toNat :=
  ⟨cells_ready, by decide +kernel⟩

/-- A base whose destination is the first address past `Shared`. -/
theorem witness_TranslatorBadBase :
    (let s : State := { cells [(0xC33, 1)] with cfg := { Cfg.ref with xlBase := #v[0xFFF, 0xE00, 0xF00] } }
     s.Quiet ∧ ((0 : Fin 3), Instr.xlat0, (16 : Fin 21)) ∈ translatorSlots ∧ InShared s.cfg.aXlTable[(0 : Fin 3)] ∧
     InShared s.cfg.aXlIndex[(0 : Fin 3)] ∧ InShared s.cfg.aXlOffset[(0 : Fin 3)] ∧
     (s.shared.get s.cfg.aXlTable[(0 : Fin 3)]).toNat ≤ 4 ∧
     ¬ InShared (s.cfg.xlBase[(0 : Fin 3)] + (s.shared.get s.cfg.aXlOffset[(0 : Fin 3)]).toNat)) := by
  decide +kernel

/-- The ends of the holes; for a write, the input registers too. `HostAddressFault` at the same addresses. -/
theorem witness_AddressOutOfRange :
    State.reset.Quiet ∧ ∀ a ∈ [4, 0xBFF, 0x1000, 0xFFFF], ¬ InShared a ∧ ¬ InInputs a := ⟨⟨rfl, .inl rfl⟩, by decide⟩

theorem witness_ResetWatcher :
    (∀ l, (cells l).Quiet ∧ (cells l).cfg.Valid) ∧ (cells [(0xC06, 0x4A)]).shared.get Cfg.ref.aResetCmd = Cfg.ref.vReset ∧
    (cells [(0xC06, 0x4B)]).shared.get Cfg.ref.aResetCmd ≠ Cfg.ref.vReset :=
  ⟨cells_ready, by decide +kernel⟩

theorem witness_HostBus : InShared (0xC00 : Half).toNat ∧ InShared (0xFFF : Half).toNat := by decide

theorem witness_InputDevice : relayIn.heldBank[(0 : Fin 4)] = some 0x3F ∧ State.reset.heldBank[(0 : Fin 4)] = none :=
  ⟨rfl, rfl⟩

theorem witness_HostAddressFault :
    ¬ InShared (0xBFF : Half).toNat ∧ ¬ InInputs (0xBFF : Half).toNat ∧ ¬ InShared (0x1000 : Half).toNat ∧
    ¬ InInputs (0x1000 : Half).toNat ∧ ¬ InShared (4 : Half).toNat ∧ ¬ InInputs (4 : Half).toNat ∧
    ¬ InShared (3 : Half).toNat := by decide

theorem witness_TickTrigger :
    State.reset.status = .running ∧ State.reset.pc = .idle ∧
    ({ State.reset with status := .poisoned 0, pc := .slot 4 } : State).status ≠ .running := by decide

/-- A state of the invariant inside a tick, and its step. -/
theorem witness_InvKept : (atSlot 13 State.reset).Inv ∧ ∃ t, step (atSlot 13 State.reset) = .next t := by
  refine ⟨⟨ref_valid, rfl, ?_, by decide, trivial, ?_⟩, step_at_slot State.reset 13⟩
  · intro k _
    exact Nat.le_trans (le_of_eq ((by decide : ∀ k : Fin 4, (#v[0, 0, 0, 0] : Vector Byte 4)[k].toNat = 0) k)) (Nat.zero_le _)
  · intro a h; cases h

/-- A poisoned core that a script line writes past. -/
theorem witness_TerminalIsSticky :
    (let s : State := { State.reset with status := .poisoned 2, pc := .slot 6, script := [0x57, 0x0C, 0x06, 0x4A] }
     s.status ≠ .running ∧ (∀ rest, s.script ≠ 0x58 :: rest) ∧ ∃ t, step s = .next t) ∧
    (let s : State := { State.reset with status := .poisoned 2, pc := .slot 6 }
     s.status ≠ .running ∧ (∀ rest, s.script ≠ 0x58 :: rest) ∧ (∀ rest, s.script ≠ 0x57 :: rest) ∧ ∃ t, step s = .next t) := by
  refine ⟨⟨by decide, ?_, _, rfl⟩, by decide, ?_, ?_, _, rfl⟩ <;> intro rest h <;> simp [State.reset, State.fresh] at h

/-- R231: two cold resets inside ticks, the second counted from the first: it comes at the third access after it. -/
theorem test_second_cold_reset :
    (afterStep { atSlot 13 (cells [(0xC18, 1)]) with cfg := { Cfg.ref with resetZeroesShared := false }, coldResets := [1, 2] }
      fun t => (t.pc, t.coldResets)) = some (.idle, [2]) ∧
    (afterStep { atSlot 13 (cells [(0xC18, 1)]) with cfg := { Cfg.ref with resetZeroesShared := false }, coldResets := [2] }
      fun t => (t.pc, t.coldResets)) = some (.idle, []) := by decide +kernel

/-- A step into each terminal status; the creepers' two ways. -/
theorem witness_TerminalCauses :
    (∀ n l, (atSlot n (cells l)).Quiet ∧ (atSlot n (cells l)).cfg.Valid ∧ (atSlot n (cells l)).status = .running ∧
      (atSlot n (cells l)).pc = .slot n) ∧
    afterStep (atSlot 4 (cells [(0xC0B, 0x42), (0xC11, 1)])) (·.status) = some (.poisoned 0) ∧
    afterStep (atSlot 6 (cells [(0xC14, 0x80)])) (·.status) = some (.refused (.unmappedCommand 2 0x80)) ∧
    afterStep (atSlot 12 { cells [] with creepTable := #v[0, 0, 0, 41] }) (·.status) =
      some (.refused (.creeperSelector 3 41)) ∧
    afterStep (atSlot 9 { cells [(0xC20, 41)] with creepIdx := #v[10, 0, 0, 0] }) (·.status) =
      some (.refused (.creeperSelector 0 41)) ∧
    afterStep (atSlot 16 (cells [(0xC30, 1), (0xC31, 5)])) (·.status) = some (.refused (.translatorTable 0 5)) :=
  ⟨fun _ _ => ⟨⟨rfl, .inl rfl⟩, ref_valid, rfl, rfl⟩, by decide +kernel⟩

/-- `RegisterOwners`, `OutputTrace` and `TickEnds` at the first and the last slot. -/
theorem witness_slots :
    (let s := atSlot 0 State.reset
     s.coldResets = [] ∧ s.status = .running ∧ s.pc = .slot 0 ∧ (0 : Fin 21) ≠ 19 ∧ ∃ t, step s = .next t) ∧
    (let s := atSlot 20 State.reset
     s.coldResets = [] ∧ s.status = .running ∧ s.pc = .slot 20 ∧ (20 : Fin 21) ≠ 19 ∧ ∃ t, step s = .next t) :=
  ⟨⟨rfl, rfl, rfl, by decide, step_at_slot State.reset 0⟩, rfl, rfl, rfl, by decide,
    step_at_slot State.reset 20⟩

theorem witness_HostOnlyCells :
    (let s := atSlot 0 (cells [(0xC05, 0x47)])
     s.Quiet ∧ s.cfg.Valid ∧ s.status = .running ∧ s.pc = .slot 0 ∧ (∃ t, step s = .next t) ∧
     0xC05 ∈ s.cfg.hostOnlyCells ∧ (∀ x : Fin 3, ¬ s.cfg.InWindow x 0xC05) ∧
     ¬ ((0 : Fin 21) = 19 ∧ s.shared.get s.cfg.aResetCmd = s.cfg.vReset)) :=
  ⟨⟨rfl, .inl rfl⟩, ref_valid, rfl, rfl, step_at_slot (cells [(0xC05, 0x47)]) 0,
    by decide +kernel⟩

theorem witness_TickAtomicity : State.reset.cfg.hostInterleave = false := rfl

/-- Under `HOST_INTERLEAVE`, command `cmd` in controller `c`'s cell and another before access number `place`. The operand of
`INC` and `DEC` is the output cell. -/
def raced (c : Fin 3) (cmd : Byte) (place : Nat) : State :=
  { cells [(0xC10 + 2 * c.val, cmd)] with
    cfg := { Cfg.ref with hostInterleave := true, ctrlOperand := .output },
    hostRace := List.replicate place [] ++ [[⟨BitVec.ofNat 10 (0x10 + 2 * c.val), 0x04⟩]] }

/-- The first and the last place, for the longest command of a credit variant and of the level variant, and for a short one. -/
theorem witness_CommandLostInRace :
    (∀ c v n, (raced c v n).cfg.Valid) ∧
    ((1 : Fin 2).castSucc, Instr.ctrl1, (5 : Fin 21)) ∈ controllerSlots ∧
    (∀ p ∈ [1, 3], (raced 1 0x02 p).CommandRaced (1 : Fin 2).castSucc p 0x04 ∧
      p ≤ (raced 1 0x02 p).cfg.accessesBeforeZeroing CreditOp.inc.readsOperand) ∧
    (∀ p ∈ [1, 2], (raced 1 0x08 p).CommandRaced (1 : Fin 2).castSucc p 0x04 ∧
      p ≤ (raced 1 0x08 p).cfg.accessesBeforeZeroing CreditOp.setMax.readsOperand) ∧
    (∀ p ∈ [1, 3], (raced 2 0x02 p).CommandRaced 2 p 0x04 ∧
      p ≤ (raced 2 0x02 p).cfg.accessesBeforeZeroing LevelOp.inc.readsOperand) ∧
    (raced 1 0x02 1).shared.get (raced 1 0x02 1).cfg.aCtrlCmd[(1 : Fin 2).castSucc] = Cfg.ref.creditMap[(1 : Fin 2)].byteOf .inc ∧
    (raced 1 0x08 1).shared.get (raced 1 0x08 1).cfg.aCtrlCmd[(1 : Fin 2).castSucc] = Cfg.ref.creditMap[(1 : Fin 2)].byteOf .setMax ∧
    (raced 2 0x02 1).shared.get (raced 2 0x02 1).cfg.aCtrlCmd[(2 : Fin 3)] = Cfg.ref.levelMap.byteOf .inc := by
  refine ⟨fun _ _ _ => ⟨ref_valid.inShared, ref_valid.distinct, ref_valid.maps, ref_valid.tables, ref_valid.values⟩, by decide, ?_⟩
  unfold State.CommandRaced
  decide +kernel

/-- A machine that keeps `Shared` at a reset, some cells written, and a reset due at access number `n` from now. -/
def kept (l : List (Nat × Byte)) (n : Nat) : State :=
  { cells l with cfg := { Cfg.ref with resetZeroesShared := false }, coldResets := [n] }

/-- Rule R231 by hand: `SETMAX` cut off at the zeroing of its cell, the output cell written and the command still there. -/
theorem test_cold_reset_before_zeroing :
    after .ctrl0 (kept [(0xC10, 0x08)] 2) (fun t => ([0xC10, 0xC11].map t.shared.get, t.ctrlCache, t.pc, t.coldResets)) =
      some ([0x08, 9], #v[0, 0, 0], .idle, []) := by decide +kernel

/-- Rules R171 and R231 by hand: the count 512 cut off between its two writes, the high byte new and the low byte old. -/
theorem test_cold_reset_between_clock_writes :
    after .clock (kept [(0xC18, 1), (0xC19, 0x02), (0xC1A, 0x00), (0xC0D, 4)] 4) (fun t => ([0xC18, 0xC19, 0xC1A, 0xC0D].map t.shared.get, t.pc)) =
      some ([1, 0x01, 0x00, 4], .idle) := by decide +kernel

/-- Coins fall on both lines at one credit each. -/
def bothCoins (n : Nat) : State := { kept [(0xC09, 3)] n with prev := #v[true, true, false] }

/-- Rules R102, R106 and R231 by hand: coin line A awarded, line B cut off before its write. -/
theorem test_cold_reset_between_coins :
    after .credit (bothCoins 4) (fun t => ([0xC09, 0xC0A].map t.shared.get, t.pc)) = some ([4, 1], .idle) := by decide +kernel

/-- Two resets to come, at the first and at the last slot, and at a creeper slot that would refuse without an access; and,
`Shared` not being zeroed, a reset at any access of any slot, without a race, the clock between two writes and two coins among
them; at the last drive of a pulse, at a command's zeroing, at a translator's last write. -/
theorem witness_ColdResetInTick :
    (∀ n, (let s : State := { atSlot n State.reset with coldResets := [0, 0] }
      s.status = .running ∧ s.pc = .slot n ∧ s.coldResets = 0 :: [0])) ∧
    ({ atSlot 9 State.reset with coldResets := [0], creepTable := #v[41, 0, 0, 0] } : State).coldResets = 0 :: [] ∧
    (∀ n j, ∃ t, step { ({ atSlot n State.reset with coldResets := [j] } : State) with coldResets := [] } = .next t) ∧
    (kept [] 0).cfg.Valid ∧ (kept [] 0).cfg.hostInterleave = false ∧ (kept [] 0).status = .running ∧
    (∀ s ∈ [kept [(0xC18, 1), (0xC19, 0x02)] 4, bothCoins 4], s.cfg = (kept [] 0).cfg ∧ s.coldResets = [4] ∧
      ∀ n, (atSlot n s).pc = .slot n ∧ ∃ t, step { atSlot n s with coldResets := [] } = .next t) ∧
    (∀ j ∈ [0, 2], (kept [(0xC05, 0x47)] (1 + j)).coldResets = (1 + j) :: [] ∧
      (kept [(0xC05, 0x47)] (1 + j)).shared.get (kept [] 0).cfg.aIrqMarker = (kept [] 0).cfg.vIrqReady) ∧
    ((0 : Fin 2).castSucc, Instr.ctrl0, (4 : Fin 21)) ∈ controllerSlots ∧
    (kept [(0xC10, 0x08)] 2).coldResets = (kept [] 0).cfg.accessesBeforeZeroing CreditOp.setMax.readsOperand :: [] ∧
    (kept [(0xC10, 0x08)] 2).shared.get (kept [] 0).cfg.aCtrlCmd[(0 : Fin 2).castSucc] =
      (kept [] 0).cfg.creditMap[(0 : Fin 2)].byteOf .setMax ∧
    (kept [(0xC14, 0x02)] 2).coldResets = (kept [] 0).cfg.accessesBeforeZeroing LevelOp.inc.readsOperand :: [] ∧
    (kept [(0xC14, 0x02)] 2).shared.get (kept [] 0).cfg.aCtrlCmd[(2 : Fin 3)] = (kept [] 0).cfg.levelMap.byteOf .inc ∧
    ((2 : Fin 3), Instr.xlat2, (18 : Fin 21)) ∈ translatorSlots ∧ (kept [(0xC38, 1)] 5).coldResets = 5 :: [] ∧
    (kept [(0xC38, 1)] 5).shared.get (kept [] 0).cfg.aXlStatus[(2 : Fin 3)] = (kept [] 0).cfg.vXlArmed ∧
    ∃ table b, (kept [] 0).cfg.xlTables[((kept [(0xC38, 1)] 5).shared.get (kept [] 0).cfg.aXlTable[(2 : Fin 3)]).toNat]? = some table ∧
      table[((kept [(0xC38, 1)] 5).shared.get (kept [] 0).cfg.aXlIndex[(2 : Fin 3)]).toNat]? = some b := by
  refine ⟨fun _ => ⟨rfl, rfl, rfl⟩, rfl, fun n j => step_at_slot State.reset n,
    ⟨ref_valid.inShared, ref_valid.distinct, ref_valid.maps, ref_valid.tables, ref_valid.values⟩, rfl, rfl,
    ?_, by decide +kernel, by decide, by decide +kernel, by decide +kernel, by decide +kernel, by decide +kernel, by decide, rfl,
    by decide +kernel, Cfg.refTranslator 0, 0, by decide +kernel⟩
  intro s hs
  have h : s.cfg = (kept [] 0).cfg ∧ s.coldResets = [4] ∧ s.status = .running := by
    obtain rfl | rfl : s = kept [(0xC18, 1), (0xC19, 0x02)] 4 ∨ s = bothCoins 4 := by simpa using hs
    exacts [⟨rfl, rfl, rfl⟩, ⟨rfl, rfl, rfl⟩]
  exact ⟨h.1, h.2.1, fun n => ⟨rfl, by simpa [atSlot, h.2.2] using step_at_slot { s with coldResets := [] } n⟩⟩

/-- One beastie on the player, and the HOST clearing the player's liveness in the first and in the last place. -/
def rechecked (place : Nat) : State :=
  { cells [(0xC40, 1), (0xC41, 10), (0xC42, 10), (0xC50, 1), (0xC51, 10), (0xC52, 10)] with
    cfg := { Cfg.ref with hostInterleave := true }, hostRace := List.replicate place [] ++ [[⟨0x40, 0⟩]] }

theorem witness_RecheckInRace :
    (∀ k, (rechecked k).cfg.Valid ∧ (rechecked k).coldResets = [] ∧ (rechecked k).cfg.hostInterleave = true) ∧
    ((0 : Fin 2), Instr.beast0, (7 : Fin 21)) ∈ beastieSlots ∧
    ∀ k ∈ [1, 10], (rechecked k).PlayerLive 0 ∧ (rechecked k).OverlapsY 0 0 ∧ (rechecked k).OverlapsX 0 0 ∧
      0 &&& (rechecked k).cfg.liveMask = 0 ∧ (rechecked k).hostRace =
        List.replicate k [] ++ [[⟨BitVec.ofNat 10 ((rechecked k).cfg.aPLive[(0 : Fin 2)] - 0xC00), 0⟩]] := by
  refine ⟨fun _ => ⟨⟨ref_valid.inShared, ref_valid.distinct, ref_valid.maps, ref_valid.tables, ref_valid.values⟩, rfl, rfl⟩,
    by decide, ?_⟩
  unfold State.OverlapsY State.OverlapsX State.PlayerLive State.BeastieLive
  decide +kernel

/-- An invalid configuration: a price of no coins (U5). `ColdReset` has the reference configuration for a valid one. -/
theorem witness_ColdReset : ¬ { Cfg.ref with price := #v[⟨0, 1⟩, ⟨1, 2⟩, ⟨2, 1⟩, ⟨2, 3⟩] }.Valid :=
  fun h => absurd (h.values.2.2.2.2.1 0) (by decide)

/-- `InvAtReset`: the empty memory is canonical, and power-on answers. -/
theorem witness_InvAtReset : Memory.wf [] = true ∧ powerOn Cfg.ref [] = .next State.reset := by
  refine ⟨rfl, ?_⟩
  have h : Cfg.ref.valid = true := by decide +kernel
  exact if_pos h

end Sys2Proof.Tests
end

/-!
PROOFS. The scope statements: the reference configuration, the reset state, and the invariant `State.Inv` at reset and
through every step. A step is either a slot or a host-script line (`step_cases`); the lines change few fields, and each
slot's operation is followed by triples whose early end is `State.Inv` itself.
-/

namespace Sys2Proof

/-! ### The configuration (rules R5, R7, R147) -/

/-- The check made at power-on is validity. -/
theorem Cfg.valid_iff (c : Cfg) : c.valid = true ↔ c.Valid := by
  simp only [Cfg.valid, Bool.and_eq_true, decide_eq_true_iff]
  constructor
  · rintro ⟨⟨⟨⟨hs, hd⟩, hm⟩, ht⟩, hv⟩
    exact ⟨hs, hd, hm, ht, hv⟩
  · rintro ⟨hs, hd, hm, ht, hv⟩
    exact ⟨⟨⟨⟨hs, hd⟩, hm⟩, ht⟩, hv⟩

theorem Cfg.valid_ref : Cfg.ref.Valid where
  inShared := by decide +kernel
  distinct := by decide +kernel
  maps := by decide +kernel
  tables := by decide +kernel
  values := by decide +kernel

/-- The entries of a reference creeper table telescope (rule R146). -/
theorem Cfg.sum_refCreeper (n : Nat) (h : n ≤ 40) : ((Cfg.refCreeper n).map BitVec.toNat).sum = n := by
  have entry : ∀ j < 10, (BitVec.ofNat 8 ((j + 1) * n / 10 - j * n / 10)).toNat = (j + 1) * n / 10 - j * n / 10 := by
    intro j hj
    have : (j + 1) * n ≤ 10 * 40 := Nat.mul_le_mul (by omega) h
    rw [BitVec.toNat_ofNat, Nat.mod_eq_of_lt (by omega)]
  have mono : Monotone fun j => j * n / 10 := fun i j hij => Nat.div_le_div_right (Nat.mul_le_mul_right n hij)
  have steps : (Cfg.refCreeper n).map BitVec.toNat = (List.range 10).map fun j => (j + 1) * n / 10 - j * n / 10 := by
    rw [Cfg.refCreeper, List.map_map]
    exact List.map_congr_left fun j hj => entry j (List.mem_range.mp hj)
  calc ((Cfg.refCreeper n).map BitVec.toNat).sum
      = ∑ j ∈ Finset.range 10, ((j + 1) * n / 10 - j * n / 10) := by rw [steps]; rfl
    _ = 10 * n / 10 - 0 * n / 10 := Finset.sum_range_tsub mono 10
    _ = n := by omega

/-- The creeper mean property of `CFG_REF` (rule R147). -/
theorem Cfg.ref_creeperMeanExact : Cfg.ref.CreeperMeanExact := by
  unfold Cfg.CreeperMeanExact
  intro n hn
  have ht : Cfg.ref.creepTables[n] = Cfg.refCreeper n := by simp [Cfg.ref]
  have hn' : n < 41 := by simpa [Cfg.ref] using hn
  rw [ht, Cfg.sum_refCreeper n (by omega)]
  simp [Cfg.refCreeper, Nat.mul_comm]

/-- Settles O43: validity and the literals by evaluating the closed configuration, the mean by the telescoping sum. -/
theorem referenceValid : Obligations.ReferenceValid :=
  ⟨Cfg.valid_ref, by decide +kernel, Cfg.ref_creeperMeanExact⟩

end Sys2Proof

namespace Sys2Proof.Machine

/-! ### Reset and power-on (rules R7, R230 to R232) -/

theorem resetFrom_restart (s : State) : ResetFrom s s.restart := by
  refine ⟨rfl, fun hz a => ?_, fun hz => ?_⟩ <;> simp [hz]

theorem powerOn_valid {cfg : Cfg} (h : cfg.Valid) (m : Memory) : powerOn cfg m = .next (State.fresh cfg m) :=
  if_pos (cfg.valid_iff.mpr h)

theorem powerOn_invalid {cfg : Cfg} (h : ¬ cfg.Valid) (m : Memory) :
    powerOn cfg m = .refused .invalidConfiguration :=
  if_neg (mt cfg.valid_iff.mp h)

theorem resetFrom_fresh (cfg : Cfg) (m : Memory) : ResetFrom (State.fresh cfg m) (State.fresh cfg m) := by
  refine ⟨rfl, fun hz a => ?_, fun _ => rfl⟩
  have hz' : cfg.resetZeroesShared = true := hz
  simp [State.fresh, hz']

/-- Settles O42: `RESET` and power-on each by their equation, the reset state's table field by field. -/
theorem coldReset : Obligations.ColdReset := by
  refine ⟨fun s => ⟨s.restart, rfl, resetFrom_restart s⟩, fun cfg m h => ?_, fun cfg m h => powerOn_invalid h m,
    powerOn_valid Cfg.valid_ref []⟩
  refine ⟨State.fresh cfg m, powerOn_valid h m, resetFrom_fresh cfg m, rfl, rfl, fun hz => ?_⟩
  simp [State.fresh, hz]

/-! ### The invariant in a reset state -/

/-- A reset establishes the invariant: only the configuration and the form of `Shared` are taken over. -/
theorem inv_restart {s : State} (hc : s.cfg.Valid) (hm : s.shared.wf = true) : s.restart.Inv where
  cfgValid := hc
  memory := by
    rw [State.restart_shared]
    split
    · rfl
    · exact hm
  creepers := by
    intro k _
    have hk : s.restart.creepIdx[k] = 0 := by fin_cases k <;> rfl
    rw [hk]
    exact Nat.zero_le _
  overlap := by simp
  stop := trivial
  addresses := by intro a; simp

/-- A fresh machine is a restarted one. -/
theorem inv_fresh {cfg : Cfg} {m : Memory} (hc : cfg.Valid) (hm : m.wf = true) : (State.fresh cfg m).Inv :=
  inv_restart (s := { State.fresh cfg m with shared := m }) hc hm

/-- Settles O49: power-on answers a fresh machine, and only for a valid configuration. -/
theorem invAtReset : Obligations.InvAtReset := by
  refine ⟨inv_fresh Cfg.valid_ref rfl, fun cfg m s hm e => ?_⟩
  by_cases hc : cfg.Valid
  · rw [powerOn_valid hc, Host.Outcome.next.injEq] at e
    exact e ▸ inv_fresh hc hm
  · rw [powerOn_invalid hc] at e
    cases e

/-! ### Everything a step can do -/

/-- The operations of the dispatch sequence, in the order of its slots (rule R60). -/
def slotOps : Vector (SlotM Unit) 21 :=
  #v[irqOp, inputRelayOp, creditOp, lockOp, creditController 0, creditController 1, levelController, beastieRelay 0,
    beastieRelay 1, creeper 0, creeper 1, creeper 2, creeper 3, clockOp, mischiefOp, extendOp, translator 0,
    translator 1, translator 2, resetWatcherOp, delayOp]

/-- Inside a tick a step runs the slot at `pc` (rules R23, R80). -/
theorem step_slot {s : State} {n : Fin 21} (hr : s.status = .running) (hp : s.pc = .slot n) :
    step s = runSlot n slotOps[n] s := by
  have hf : s.fetch = s.fetchSlot n := by simp [State.fetch, hr, hp]
  rw [step, hf]
  fin_cases n <;> rfl

/-- The instructions that stand in a host script (rule R73). -/
inductive ScriptLine : Instr → Prop
  | hw (a : Half) (v : Byte) : ScriptLine (.hw a v)
  | hr (a : Half) (v : Byte) : ScriptLine (.hr a v)
  | inp (b : Fin 4) (v : Byte) : ScriptLine (.inp b v)
  | cab (v : Byte) : ScriptLine (.cab v)
  | tick : ScriptLine .tick
  | reset : ScriptLine .reset

theorem scriptLine_of_decode {bytes rest : List Byte} {i : Instr} (h : decodeScript bytes = .ok (i, rest)) :
    ScriptLine i := by
  unfold decodeScript at h
  repeat' split at h
  all_goals cases h
  all_goals constructor

/-- Between ticks, and in a terminal status, a step that answers a next state runs one line of the script (rules R73, R207). -/
theorem step_script {s t : State} (hf : s.fetch = s.fetchScript) (e : step s = .next t) :
    ∃ i rest, ScriptLine i ∧ exec i { s with script := rest } = .next t := by
  rw [step, hf, State.fetchScript] at e
  cases hs : s.script with
  | nil =>
    rw [hs] at e
    exact ⟨.tick, s.script, .tick, e⟩
  | cons b bytes =>
    rw [hs] at e
    cases hd : decodeScript (b :: bytes) with
    | ok r =>
      obtain ⟨i, rest⟩ := r
      simp only [hd] at e
      exact ⟨i, rest, scriptLine_of_decode hd, e⟩
    | error d =>
      simp only [hd] at e
      cases e

/-- A step is fetched from the dispatch sequence inside a tick, else from the script. -/
theorem fetch_cases (s : State) :
    (∃ n, s.status = .running ∧ s.pc = .slot n) ∨ ((s.status = .running → s.pc = .idle) ∧ s.fetch = s.fetchScript) := by
  unfold State.fetch
  cases hs : s.status <;> cases hp : s.pc <;> simp

/-- Everything a step that answers a next state can do. -/
theorem step_cases {s t : State} (e : step s = .next t) :
    (∃ n, s.status = .running ∧ s.pc = .slot n ∧ runSlot n slotOps[n] s = .next t) ∨
    ((s.status = .running → s.pc = .idle) ∧
      ∃ i rest, ScriptLine i ∧ exec i { s with script := rest } = .next t) := by
  rcases fetch_cases s with ⟨n, hr, hp⟩ | ⟨hi, hf⟩
  · exact .inl ⟨n, hr, hp, step_slot hr hp ▸ e⟩
  · exact .inr ⟨hi, step_script hf e⟩

/-! ### The invariant through a host-script line -/

/-- What is left of the script is no part of the invariant. -/
theorem inv_script {s : State} (h : s.Inv) (rest : List Byte) : ({ s with script := rest } : State).Inv :=
  ⟨h.cfgValid, h.memory, h.creepers, h.overlap, h.stop, h.addresses⟩

theorem inv_execHw {s t : State} {a : Half} {v : Byte} (h : s.Inv) (e : execHw a v s = .next t) : t.Inv := by
  unfold execHw State.busWrite at e
  by_cases ha : InShared a.toNat
  · simp only [if_pos ha, Host.Outcome.next.injEq] at e
    subst e
    exact ⟨h.cfgValid, Memory.wf_put _ _ _ ha h.memory, h.creepers, h.overlap, h.stop, h.addresses⟩
  · simp only [if_neg ha] at e
    cases e

/-- A bus read counts a draw at most. -/
theorem busRead_draws {s t : State} {a : Nat} {v : Byte} (e : s.busRead a = some (v, t)) :
    ∃ d, t = { s with draws := d } := by
  rcases busRead_cases s a with ⟨hi, e'⟩ | ⟨-, -, e'⟩ | ⟨-, -, e'⟩ <;> rw [e'] at e
  · rcases sampleBank_cases s ⟨a, hi⟩ with ⟨w, -, e''⟩ | ⟨-, e''⟩ <;> rw [e''] at e <;> cases e
    · exact ⟨s.draws, rfl⟩
    · exact ⟨s.draws + 1, rfl⟩
  · cases e
    exact ⟨s.draws, rfl⟩
  · cases e

theorem inv_execHr {s t : State} {a : Half} {v : Byte} (h : s.Inv) (e : execHr a v s = .next t) : t.Inv := by
  unfold execHr at e
  split at e
  · rename_i x u hb
    obtain ⟨d, rfl⟩ := busRead_draws hb
    cases e
    exact ⟨h.cfgValid, h.memory, h.creepers, h.overlap, h.stop, h.addresses⟩
  · cases e

theorem inv_trigger {s : State} (h : s.Inv) : s.trigger.Inv := by
  unfold State.trigger
  split
  · rename_i hi
    have hstop : ({ s with pc := .slot 0 } : State).StopAtItsSlot := by simp [State.StopAtItsSlot, hi.1]
    exact ⟨h.cfgValid, h.memory, h.creepers, h.overlap, hstop, h.addresses⟩
  · exact h

theorem inv_scriptLine {s t : State} {i : Instr} (h : s.Inv) (hi : ScriptLine i) (e : exec i s = .next t) : t.Inv := by
  cases hi with
  | hw a v => exact inv_execHw h e
  | hr a v => exact inv_execHr h e
  | inp b v => cases e; exact ⟨h.cfgValid, h.memory, h.creepers, h.overlap, h.stop, h.addresses⟩
  | cab v => cases e; exact ⟨h.cfgValid, h.memory, h.creepers, h.overlap, h.stop, h.addresses⟩
  | tick => cases e; exact inv_trigger h
  | reset => cases e; exact inv_restart h.cfgValid h.memory

/-! ### Inside a slot -/

/-- What is known of the creeper tables, the creeper cursors and the overlap counter. -/
abbrev RegisterFact := Vector Byte 4 → Vector Byte 4 → Byte → Prop

/-- Cursor `i` of a creeper stands inside table `n` or on its sentinel; a selector above 40 has no table (rules R142 to R145). -/
def CursorFits (c : Cfg) (n i : Byte) : Prop := n ≤ 40 → i.toNat ≤ (creeperTable c n).length

/-- The registers' part of the invariant, with at most `m` overlaps counted. -/
def RegistersOk (c : Cfg) (m : Nat) : RegisterFact := fun tables cursors overlap =>
  (∀ k : Fin 4, CursorFits c tables[k] cursors[k]) ∧ overlap.toNat ≤ m

/-- Slot `n` runs under the configuration `c`, `Shared` is canonical, and the registers are as `Q` says. -/
structure State.Inside (c : Cfg) (n : Fin 21) (Q : RegisterFact) (s : State) : Prop where
  cfg : s.cfg = c
  memory : s.shared.wf = true
  running : s.status = .running
  pc : s.pc = .slot n
  registers : Q s.creepTable s.creepIdx s.yOverlap

/-- Slot `n` runs and the invariant holds. -/
abbrev State.Steady (c : Cfg) (n : Fin 21) : State → Prop := State.Inside c n (RegistersOk c 7)

/-- From a state with `P`, `m` completes with `P` again, or ends early with the invariant. -/
abbrev Keeps {α : Type} (P : State → Prop) (m : SlotM α) : Prop := Triple State.Inv P m fun _ => P

theorem RegistersOk.mono {c : Cfg} {m k : Nat} (hk : m ≤ k) {tables cursors : Vector Byte 4} {overlap : Byte}
    (h : RegistersOk c m tables cursors overlap) : RegistersOk c k tables cursors overlap :=
  ⟨h.1, h.2.trans hk⟩

theorem State.Inside.mono {c : Cfg} {n : Fin 21} {Q Q' : RegisterFact} {s : State}
    (hq : ∀ tables cursors overlap, Q tables cursors overlap → Q' tables cursors overlap) (h : s.Inside c n Q) :
    s.Inside c n Q' :=
  ⟨h.cfg, h.memory, h.running, h.pc, hq _ _ _ h.registers⟩

section
variable {α β : Type} {c : Cfg} {n : Fin 21} {Q : RegisterFact} {P : State → Prop}

/-- A running state between two slots has the invariant, wherever `pc` stands. -/
theorem inv_of_steady (hc : c.Valid) {s : State} (h : s.Steady c n) (p : Pc) : ({ s with pc := p } : State).Inv where
  cfgValid := h.cfg ▸ hc
  memory := h.memory
  creepers := by
    intro k
    have := h.registers.1 k
    rw [← h.cfg] at this
    exact this
  overlap := h.registers.2
  stop := by simp [State.StopAtItsSlot, h.running]
  addresses := by intro a; simp [h.running]

/-- A stop that is no address fault leaves the invariant, when the slot is the one that raises it. -/
theorem inv_of_stop (hc : c.Valid) {s : State} (h : s.Steady c n) {st : Status}
    (hs : ({ s with status := st } : State).StopAtItsSlot) (ha : ∀ a, st ≠ .faulted a) :
    ({ s with status := st } : State).Inv :=
  have h' := inv_of_steady hc h s.pc
  ⟨h'.cfgValid, h'.memory, h'.creepers, h'.overlap, hs, ha⟩

theorem steady_of_inv {s : State} (h : s.Inv) (hr : s.status = .running) :
    ({ s with pc := .slot n } : State).Steady s.cfg n :=
  ⟨rfl, h.memory, hr, rfl, h.creepers, h.overlap⟩

theorem undisturbed_inside (hc : c.Valid) : Undisturbed State.Inv (State.Inside c n Q) where
  count := fun _ _ _ h _ => ⟨h.cfg, h.memory, h.running, h.pc, h.registers⟩
  cold := fun _ _ h _ => inv_restart (h.cfg ▸ hc) h.memory
  race := fun s ws _ h _ _ => ⟨h.cfg, Memory.wf_hostWrites ws s.shared h.memory, h.running, h.pc, h.registers⟩
  draw := fun _ _ h => ⟨h.cfg, h.memory, h.running, h.pc, h.registers⟩

theorem keeps_bind {m : SlotM α} {f : α → SlotM β} (hm : Keeps P m) (hf : ∀ a, Keeps P (f a)) : Keeps P (m >>= f) :=
  triple_bind hm hf

theorem keeps_pure (a : α) : Keeps P (pure a : SlotM α) := triple_pure a fun _ h => h

theorem keeps_reg (f : State → α) : Keeps P (reg f) := triple_reg f fun _ h => h

theorem keeps_ite {p : Prop} [Decidable p] {m m' : SlotM α} (h : Keeps P m) (h' : Keeps P m') :
    Keeps P (if p then m else m') :=
  triple_ite (fun _ => h) fun _ => h'

/-- What follows a register read may know whose value its answer is. -/
theorem triple_reg_bind {E : State → Prop} {f : State → α} {g : α → SlotM β} {T : β → State → Prop}
    (h : ∀ a, Triple E (fun s => P s ∧ f s = a) (g a) T) : Triple E P (reg f >>= g) T :=
  triple_bind (triple_reg f fun _ hs => ⟨hs, rfl⟩) h

theorem keeps_cfg {f : Cfg → SlotM β} {T : β → State → Prop} (h : Triple State.Inv (State.Inside c n Q) (f c) T) :
    Triple State.Inv (State.Inside c n Q) (reg (·.cfg) >>= f) T :=
  triple_cfg (fun _ h => h.cfg) h

theorem keeps_memRead (hc : c.Valid) {a : Nat} (ha : InShared a) : Keeps (State.Inside c n Q) (memRead a) :=
  triple_conseq (triple_memRead (undisturbed_inside hc) a ha) (fun _ h => h) fun _ _ h => h.1

theorem keeps_memWrite (hc : c.Valid) {a : Nat} (ha : InShared a) (v : Byte) : Keeps (State.Inside c n Q) (memWrite a v) :=
  triple_memWrite (undisturbed_inside hc) a v ha fun s h =>
    ⟨h.cfg, Memory.wf_put s.shared a v ha h.memory, h.running, h.pc, h.registers⟩

theorem keeps_portWrite (hc : c.Valid) (p : Port) (l : Bool) : Keeps (State.Inside c n Q) (portWrite p l) :=
  triple_portWrite (undisturbed_inside hc) p l fun s h =>
    ⟨by simpa using h.cfg, by simpa using h.memory, by simpa using h.running, by simpa using h.pc, by simpa using h.registers⟩

theorem keeps_engage (hc : c.Valid) : Keeps (State.Inside c n Q) engage := keeps_portWrite hc _ _

theorem keeps_disengage (hc : c.Valid) : Keeps (State.Inside c n Q) disengage := keeps_portWrite hc _ _

/-- An update of a register that the invariant does not speak of; the default proof is for every such record update. -/
theorem keeps_update (f : State → State)
    (h : ∀ s, s.Inside c n Q → (f s).Inside c n Q := by
      exact fun _ h => ⟨h.cfg, h.memory, h.running, h.pc, h.registers⟩) :
    Keeps (State.Inside c n Q) (update f) :=
  triple_update f h

/-- A read of a named cell. -/
theorem keeps_readCell (hc : c.Valid) (x : PlainCell) : Keeps (State.Inside c n Q) (memRead (c.addr x)) :=
  keeps_memRead hc (hc.inShared_addr x)

/-- A write of a named cell. -/
theorem keeps_writeCell (hc : c.Valid) (x : PlainCell) (v : Byte) : Keeps (State.Inside c n Q) (memWrite (c.addr x) v) :=
  keeps_memWrite hc (hc.inShared_addr x) v

end

/-! ### The slots -/

section
variable {c : Cfg} {n : Fin 21} {Q : RegisterFact}

/-! #### Slots 0 to 3 -/

theorem keeps_pulse (hc : c.Valid) : Keeps (State.Inside c n Q) pulse :=
  keeps_bind (keeps_portWrite hc _ _) fun _ => keeps_bind (keeps_portWrite hc _ _) fun _ => keeps_portWrite hc _ _

theorem keeps_irqOp (hc : c.Valid) : Keeps (State.Inside c n Q) irqOp :=
  keeps_cfg <| keeps_bind (keeps_readCell hc .irqMarker) fun _ => keeps_ite (keeps_pulse hc) (keeps_pure ())

theorem keeps_readInput (hc : c.Valid) (b : Fin 4) : Keeps (State.Inside c n Q) (memRead b.val) :=
  triple_memRead_input (undisturbed_inside hc) b

theorem keeps_readCab (hc : c.Valid) : Keeps (State.Inside c n Q) readCab := triple_readCab (undisturbed_inside hc)

theorem keeps_relayBank (hc : c.Valid) (b : Fin 4) : Keeps (State.Inside c n Q) (relayBank b) :=
  keeps_cfg <| keeps_bind (keeps_readInput hc b) fun w =>
    keeps_bind (keeps_update _) fun _ =>
      keeps_writeCell hc (.bankMirror b) w

theorem keeps_inputRelayOp (hc : c.Valid) : Keeps (State.Inside c n Q) inputRelayOp :=
  keeps_cfg <| keeps_bind (keeps_readCab hc) fun v =>
    keeps_bind (keeps_update _) fun _ =>
      keeps_bind (keeps_writeCell hc .cabMirror v) fun _ =>
        keeps_bind (keeps_relayBank hc 0) fun _ => keeps_bind (keeps_relayBank hc 1) fun _ =>
          keeps_bind (keeps_relayBank hc 2) fun _ => keeps_relayBank hc 3

theorem keeps_award (hc : c.Valid) (a : Byte) : Keeps (State.Inside c n Q) (award a) :=
  keeps_cfg <| keeps_bind (keeps_readCell hc .phony) fun _ =>
    keeps_bind (keeps_writeCell hc .phony _) fun _ => keeps_writeCell hc .changed _

theorem keeps_accumulate (hc : c.Valid) (l : Fin 2) (p : Price) : Keeps (State.Inside c n Q) (accumulate l p) :=
  keeps_bind (keeps_update _) fun _ =>
    keeps_bind (keeps_reg _) fun _ => keeps_ite
      (keeps_bind (keeps_update _) fun _ => keeps_award hc _)
      (keeps_pure ())

theorem keeps_coinFell (hc : c.Valid) (l : Fin 2) : Keeps (State.Inside c n Q) (coinFell l) :=
  keeps_bind (keeps_reg _) fun _ => keeps_ite (keeps_accumulate hc l _) (keeps_award hc _)

theorem keeps_edge (g : Signal) (now : Bool) : Keeps (State.Inside c n Q) (edge g now) :=
  keeps_bind (keeps_reg _) fun _ =>
    keeps_bind (keeps_update _) fun _ => keeps_pure _

theorem keeps_coinLine (hc : c.Valid) (l : Fin 2) : Keeps (State.Inside c n Q) (coinLine l) :=
  keeps_bind (keeps_reg _) fun _ => keeps_bind (keeps_edge _ _) fun _ =>
    keeps_ite (keeps_coinFell hc l) (keeps_pure ())

theorem keeps_serviceFell (hc : c.Valid) : Keeps (State.Inside c n Q) serviceFell :=
  keeps_cfg <| keeps_bind (keeps_readCell hc .phony) fun _ => keeps_ite (keeps_engage hc) (keeps_award hc _)

theorem keeps_serviceLine (hc : c.Valid) : Keeps (State.Inside c n Q) serviceLine :=
  keeps_bind (keeps_reg _) fun _ => keeps_bind (keeps_edge _ _) fun _ =>
    keeps_ite (keeps_serviceFell hc) (keeps_pure ())

theorem keeps_threshold (hc : c.Valid) : Keeps (State.Inside c n Q) threshold :=
  keeps_cfg <| keeps_bind (keeps_readCell hc .phony) fun _ => keeps_ite (keeps_engage hc) (keeps_disengage hc)

theorem keeps_creditOp (hc : c.Valid) : Keeps (State.Inside c n Q) creditOp :=
  keeps_bind (keeps_coinLine hc 0) fun _ => keeps_bind (keeps_coinLine hc 1) fun _ =>
    keeps_bind (keeps_serviceLine hc) fun _ => keeps_threshold hc

theorem keeps_lockOp (hc : c.Valid) : Keeps (State.Inside c n Q) lockOp :=
  keeps_cfg <| keeps_bind (keeps_readCell hc .lockCmd) fun _ =>
    keeps_ite (keeps_engage hc) (keeps_ite (keeps_disengage hc) (keeps_pure ()))

/-! #### Slots 4 to 6: the controllers -/

theorem keeps_complete (hc : c.Valid) (k : Fin 3) (r : Byte) : Keeps (State.Inside c n Q) (complete k r) :=
  keeps_cfg <| keeps_bind (keeps_writeCell hc (.ctrlOut k) r) fun _ =>
    keeps_bind (keeps_update _) fun _ =>
      keeps_writeCell hc (.ctrlCmd k) 0

theorem keeps_operand (hc : c.Valid) (k : Fin 3) : Keeps (State.Inside c n Q) (operand k) := by
  refine keeps_cfg ?_
  cases c.ctrlOperand with
  | cache => exact keeps_reg _
  | output => exact keeps_readCell hc (.ctrlOut k)

theorem keeps_incCommand (hc : c.Valid) (k : Fin 3) : Keeps (State.Inside c n Q) (incCommand k) :=
  keeps_cfg <| keeps_bind (keeps_operand hc k) fun _ => keeps_complete hc k _

theorem keeps_creditCommand (hc : c.Valid) (k : Fin 2) (op : CreditOp) : Keeps (State.Inside c n Q) (creditCommand k op) := by
  cases op with
  | derive => exact keeps_cfg <| keeps_bind (keeps_reg _) fun _ => keeps_complete hc _ _
  | inc => exact keeps_incCommand hc _
  | dec => exact keeps_bind (keeps_operand hc _) fun _ => keeps_complete hc _ _
  | setMax => exact keeps_cfg <| keeps_complete hc _ _

theorem keeps_setCommand (hc : c.Valid) (f : LevelTargets → Byte) : Keeps (State.Inside c n Q) (setCommand f) :=
  keeps_cfg <| keeps_complete hc _ _

theorem keeps_levelCommand (hc : c.Valid) (op : LevelOp) : Keeps (State.Inside c n Q) (levelCommand op) := by
  cases op with
  | inc => exact keeps_incCommand hc 2
  | set00 | set31 | set62 | set63 | set64 | set65 => exact keeps_setCommand hc _

/-- A slot that ends in a stop of its own, no address fault, ends with the invariant. -/
theorem keeps_raise {α : Type} (hc : c.Valid) (st : Status)
    (hs : ∀ s : State, s.pc = .slot n → ({ s with status := st } : State).StopAtItsSlot) (ha : ∀ a, st ≠ .faulted a) :
    Keeps (State.Steady c n) (raise st : SlotM α) :=
  triple_raise st fun s h => inv_of_stop hc h (hs s h.pc) ha

theorem keeps_consistencyCheck (hc : c.Valid) (k : Fin 3) : Keeps (State.Steady c (ctrlSlot k)) (consistencyCheck k) :=
  keeps_cfg <| keeps_bind (keeps_readCell hc (.ctrlOut k)) fun _ => keeps_bind (keeps_reg _) fun _ =>
    keeps_ite (keeps_raise hc _ (fun _ hp => hp) nofun) (keeps_pure ())

theorem keeps_diagnostic (hc : c.Valid) (k : Fin 3) : Keeps (State.Steady c (ctrlSlot k)) (diagnostic k) :=
  keeps_cfg <| keeps_bind (keeps_memRead hc (hc.inShared_gate k)) fun _ =>
    keeps_ite (keeps_consistencyCheck hc k) (keeps_pure ())

/-- A nonzero byte outside the map is refused at the controller's own slot (rule R129). -/
theorem keeps_refuseUnmapped (hc : c.Valid) (k : Fin 3) {cmd : Byte} (h0 : cmd ≠ 0) :
    Keeps (State.Steady c (ctrlSlot k)) (raise (.refused (.unmappedCommand k cmd)) : SlotM Unit) :=
  keeps_raise hc _ (fun _ hp => ⟨hp, h0⟩) nofun

theorem keeps_creditController (hc : c.Valid) (k : Fin 2) :
    Keeps (State.Steady c (ctrlSlot k.castSucc)) (creditController k) := by
  refine keeps_cfg <| keeps_bind (keeps_readCell hc (.ctrlCmd k.castSucc)) fun cmd => ?_
  refine triple_ite (fun _ => keeps_diagnostic hc _) fun h0 => ?_
  cases c.creditMap[k].op cmd with
  | some op => exact keeps_creditCommand hc k op
  | none => exact keeps_refuseUnmapped hc _ h0

theorem keeps_levelController (hc : c.Valid) : Keeps (State.Steady c (ctrlSlot 2)) levelController := by
  refine keeps_cfg <| keeps_bind (keeps_readCell hc (.ctrlCmd 2)) fun cmd => ?_
  refine triple_ite (fun _ => keeps_diagnostic hc _) fun h0 => ?_
  cases c.levelMap.op cmd with
  | some op => exact keeps_levelCommand hc op
  | none => exact keeps_refuseUnmapped hc _ h0

/-! #### Slots 7 and 8: the beastie relays -/

/-- A beastie adds one to the counter or nothing (rule R156). -/
theorem triple_countYOverlap (m : Nat) (d : Byte) :
    Triple State.Inv (State.Inside c n (RegistersOk c m)) (countYOverlap d)
      fun _ => State.Inside c n (RegistersOk c (m + 1)) := by
  refine triple_update _ fun s h => ?_
  obtain ⟨hfit, hm⟩ := h.registers
  split
  · have hs : (s.yOverlap + 1).toNat ≤ m + 1 := by bv_omega
    exact ⟨h.cfg, h.memory, h.running, h.pc, hfit, hs⟩
  · exact h.mono fun _ _ _ => RegistersOk.mono m.le_succ

theorem triple_verticalResult (hc : c.Valid) (p : Fin 2) (i : Fin 7) (m : Nat) :
    Triple State.Inv (State.Inside c n (RegistersOk c m)) (verticalResult p i)
      fun _ => State.Inside c n (RegistersOk c (m + 1)) :=
  keeps_cfg <| triple_bind (keeps_readCell hc (.bY i)) fun _ => triple_bind (keeps_reg _) fun _ =>
    triple_bind (keeps_writeCell hc (.oVCode p i) _) fun _ => triple_bind (keeps_writeCell hc (.oVDist p i) _) fun _ =>
      triple_countYOverlap m _

theorem keeps_horizontalResult (hc : c.Valid) (p : Fin 2) (i : Fin 7) :
    Keeps (State.Inside c n Q) (horizontalResult p i) :=
  keeps_cfg <| keeps_bind (keeps_readCell hc (.bX i)) fun _ => keeps_bind (keeps_reg _) fun _ =>
    keeps_bind (keeps_writeCell hc (.oHCode p i) _) fun _ => keeps_bind (keeps_writeCell hc (.oHDist p i) _) fun _ =>
      keeps_pure _

theorem keeps_killRequest (hc : c.Valid) (p : Fin 2) : Keeps (State.Inside c n Q) (killRequest p) :=
  keeps_cfg <| keeps_bind (keeps_readCell hc (.pLive p)) fun _ => keeps_ite
    (keeps_bind (keeps_writeCell hc (.killReq p) _) fun _ => keeps_bind (keeps_reg _) fun _ =>
      keeps_bind (keeps_writeCell hc (.killIdx p) _) fun _ => keeps_pure _)
    (keeps_pure _)

theorem triple_liveBeastie (hc : c.Valid) (p : Fin 2) (i : Fin 7) (m : Nat) :
    Triple State.Inv (State.Inside c n (RegistersOk c m)) (liveBeastie p i)
      fun _ => State.Inside c n (RegistersOk c (m + 1)) :=
  triple_bind (triple_verticalResult hc p i m) fun _ => keeps_bind (keeps_horizontalResult hc p i) fun _ =>
    keeps_bind (keeps_reg _) fun _ => keeps_ite (keeps_killRequest hc p) (keeps_pure _)

theorem triple_visitBeastie (hc : c.Valid) (p : Fin 2) (i : Fin 7) (m : Nat) :
    Triple State.Inv (State.Inside c n (RegistersOk c m)) (visitBeastie p i)
      fun _ => State.Inside c n (RegistersOk c (m + 1)) :=
  keeps_cfg <| triple_bind (keeps_update _) fun _ => triple_bind (keeps_readCell hc (.bStage i)) fun _ =>
    triple_ite (fun _ => triple_liveBeastie hc p i m) fun _ =>
      triple_pure _ fun _ h => h.mono fun _ _ _ => RegistersOk.mono m.le_succ

/-- A sweep counts each beastie it visits at most once (rules R153, R156). -/
theorem triple_sweep (hc : c.Valid) (p : Fin 2) (l : List (Fin 7)) (m : Nat) :
    Triple State.Inv (State.Inside c n (RegistersOk c m)) (sweep p l)
      fun _ => State.Inside c n (RegistersOk c (m + l.length)) := by
  induction l generalizing m with
  | nil => exact keeps_pure ()
  | cons i rest ih =>
    refine triple_bind (triple_visitBeastie hc p i m) fun _ => triple_ite (fun _ => ?_) fun _ => ?_
    · exact triple_pure _ fun _ h => h.mono fun _ _ _ => RegistersOk.mono (by simp)
    · have hl : m + 1 + rest.length = m + (i :: rest).length := by simp; omega
      exact hl ▸ ih (m + 1)

/-- The counter starts a sweep at 0 (rule R152), so the seven beasties leave it at 7 at most. -/
theorem keeps_livePlayer (hc : c.Valid) (p : Fin 2) : Keeps (State.Steady c n) (livePlayer p) := by
  refine keeps_cfg <| keeps_bind (keeps_readCell hc (.pX p)) fun _ => ?_
  refine keeps_bind (keeps_update _) fun _ => ?_
  refine keeps_bind (keeps_readCell hc (.pY p)) fun _ => ?_
  refine keeps_bind (keeps_update _) fun _ => ?_
  refine triple_bind (Q := fun _ => State.Inside c n (RegistersOk c 0)) (triple_update _ fun _ h => ?_) fun _ =>
    triple_sweep hc p [0, 1, 2, 3, 4, 5, 6] 0
  exact ⟨h.cfg, h.memory, h.running, h.pc, h.registers.1, le_rfl⟩

theorem keeps_beastieRelay (hc : c.Valid) (p : Fin 2) : Keeps (State.Steady c n) (beastieRelay p) :=
  keeps_cfg <| keeps_bind (keeps_readCell hc (.pLive p)) fun _ => keeps_ite (keeps_livePlayer hc p) (keeps_pure ())

/-! #### Slots 9 to 12: the creepers -/

/-- A table of a valid configuration has an entry to emit, and its sentinel's place fits into a byte (rule R141). -/
theorem creeperTable_bounds (hc : c.Valid) {t : Byte} (ht : t ≤ 40) :
    0 < (creeperTable c t).length ∧ (creeperTable c t).length ≤ 255 := by
  have hl : t.toNat < c.creepTables.length := by rw [hc.tables.1]; bv_omega
  have he : creeperTable c t = c.creepTables[t.toNat] := List.getD_eq_getElem _ _ hl
  obtain ⟨hne, hle, -⟩ := hc.tables.2.1 _ (List.getElem_mem hl)
  rw [he]
  exact ⟨List.length_pos_iff.mpr hne, hle⟩

/-- The cursors fit but for creeper `k`, which has latched table `t`. -/
def Latched (c : Cfg) (k : Fin 4) (t : Byte) : RegisterFact := fun tables cursors overlap =>
  (∀ j : Fin 4, j ≠ k → CursorFits c tables[j] cursors[j]) ∧ tables[k] = t ∧ overlap.toNat ≤ 7

theorem latched_of_registersOk {k : Fin 4} {tables cursors : Vector Byte 4} {overlap : Byte}
    (h : RegistersOk c 7 tables cursors overlap) : Latched c k tables[k] tables cursors overlap :=
  ⟨fun j _ => h.1 j, rfl, h.2⟩

/-- Latching another table leaves the other creepers alone. -/
theorem latched_set {k : Fin 4} {t₀ : Byte} {tables cursors : Vector Byte 4} {overlap : Byte}
    (h : Latched c k t₀ tables cursors overlap) (t : Byte) : Latched c k t (tables.set k t) cursors overlap := by
  obtain ⟨hothers, -, ho⟩ := h
  refine ⟨fun j hj => ?_, by simp, ho⟩
  have hkj : (k : Nat) ≠ j := fun e => hj (Fin.ext e.symm)
  have ht : (tables.set k t)[j] = tables[j] := Vector.getElem_set_ne _ _ hkj
  rw [ht]
  exact hothers j hj

theorem registersOk_set_cursor {k : Fin 4} {t i : Byte} {tables cursors : Vector Byte 4} {overlap : Byte}
    (h : Latched c k t tables cursors overlap) (hi : CursorFits c t i) :
    RegistersOk c 7 tables (cursors.set k i) overlap := by
  obtain ⟨hothers, hk, ho⟩ := h
  refine ⟨fun j => ?_, ho⟩
  by_cases hj : j = k
  · subst hj
    have hs : (cursors.set j i)[j] = i := by simp
    rw [hs, hk]
    exact hi
  · have hkj : (k : Nat) ≠ j := fun e => hj (Fin.ext e.symm)
    have hs : (cursors.set k i)[j] = cursors[j] := Vector.getElem_set_ne _ _ hkj
    rw [hs]
    exact hothers j hj

/-- Emitting an entry of the latched table moves the cursor behind it, the sentinel at most (rule R143). -/
theorem triple_emitCreeper (hc : c.Valid) (k : Fin 4) {t i : Byte} (hi : CursorFits c t (i + 1)) :
    Triple State.Inv (State.Inside c n (Latched c k t)) (emitCreeper k t i) fun _ => State.Steady c n :=
  keeps_cfg <| triple_bind (keeps_writeCell hc (.creepOut k) _) fun _ => triple_update _ fun _ h =>
    ⟨h.cfg, h.memory, h.running, h.pc, registersOk_set_cursor h.registers hi⟩

/-- A selector above 40 is refused at the creeper's own slot once it is latched; it has no table for a cursor to leave (rule
R145). -/
theorem inv_of_refusedSelector (hc : c.Valid) {k : Fin 4} {t : Byte} (ht : t > 40) {s : State}
    (h : s.Inside c (creepSlot k) (Latched c k t)) :
    ({ s with status := .refused (.creeperSelector k t) } : State).Inv := by
  obtain ⟨hothers, hk, ho⟩ := h.registers
  have hfit : ∀ j : Fin 4, CursorFits c s.creepTable[j] s.creepIdx[j] := by
    intro j
    by_cases hj : j = k
    · subst hj
      intro hle
      rw [hk] at hle
      bv_omega
    · exact hothers j hj
  exact inv_of_stop hc ⟨h.cfg, h.memory, h.running, h.pc, hfit, ho⟩ ⟨h.pc, ht, hk⟩ nofun

theorem triple_creeperBoundary (hc : c.Valid) (k : Fin 4) {t₀ : Byte} :
    Triple State.Inv (State.Inside c (creepSlot k) (Latched c k t₀)) (creeperBoundary k)
      fun _ => State.Steady c (creepSlot k) := by
  refine keeps_cfg <| triple_bind (keeps_readCell hc (.creepSel k)) fun t => ?_
  refine triple_bind (Q := fun _ => State.Inside c (creepSlot k) (Latched c k t)) (triple_update _ fun _ h => ?_) fun _ => ?_
  · exact ⟨h.cfg, h.memory, h.running, h.pc, latched_set h.registers t⟩
  · refine triple_ite (fun ht => triple_raise _ fun _ h => inv_of_refusedSelector hc ht h) fun _ => ?_
    exact triple_emitCreeper hc k fun ht => (creeperTable_bounds hc ht).1

theorem triple_refuseLatched (hc : c.Valid) (k : Fin 4) {t : Byte} (ht : t > 40) :
    Triple State.Inv (State.Inside c (creepSlot k) (Latched c k t)) (refuseLatched k t)
      fun _ => State.Steady c (creepSlot k) :=
  triple_bind (triple_coldResetPoint (undisturbed_inside hc)) fun _ =>
    triple_raise _ fun _ h => inv_of_refusedSelector hc ht h

/-- A cursor inside its table, before the sentinel, fits when moved on. -/
theorem cursorFits_succ (hc : c.Valid) {t i : Byte} (h : CursorFits c t i) (hne : i.toNat ≠ (creeperTable c t).length) :
    CursorFits c t (i + 1) := by
  intro ht
  have h1 := h ht
  have h2 := (creeperTable_bounds hc ht).2
  bv_omega

theorem keeps_creeper (hc : c.Valid) (k : Fin 4) : Keeps (State.Steady c (creepSlot k)) (creeper k) := by
  refine keeps_cfg <| triple_reg_bind fun t => triple_reg_bind fun i => ?_
  rintro s ⟨⟨h, rfl⟩, rfl⟩
  have hl : s.Inside c (creepSlot k) (Latched c k s.creepTable[k]) :=
    ⟨h.cfg, h.memory, h.running, h.pc, latched_of_registersOk h.registers⟩
  have hfit : CursorFits c s.creepTable[k] s.creepIdx[k] := h.registers.1 k
  exact triple_ite (fun ht => triple_refuseLatched hc k ht) (fun _ => triple_ite (fun _ => triple_creeperBoundary hc k)
    fun hne => triple_emitCreeper hc k (cursorFits_succ hc hfit hne)) s hl

/-! #### Slots 13 to 20 -/

theorem keeps_clockCount (hc : c.Valid) : Keeps (State.Inside c n Q) clockCount :=
  keeps_cfg <| keeps_bind (keeps_readCell hc .clkHi) fun _ => keeps_bind (keeps_readCell hc .clkLo) fun _ => keeps_ite
    (keeps_bind (keeps_writeCell hc .clkActive _) fun _ => keeps_writeCell hc .clkDone _)
    (keeps_bind (keeps_writeCell hc .clkHi _) fun _ => keeps_writeCell hc .clkLo _)

theorem keeps_clockOp (hc : c.Valid) : Keeps (State.Inside c n Q) clockOp :=
  keeps_cfg <| keeps_bind (keeps_readCell hc .clkActive) fun _ => keeps_ite (keeps_pure ()) (keeps_clockCount hc)

theorem keeps_mischiefArmed (hc : c.Valid) : Keeps (State.Inside c n Q) mischiefArmed :=
  keeps_cfg <| keeps_bind (keeps_reg _) fun _ => keeps_ite (keeps_writeCell hc .phony _) (keeps_pure ())

theorem keeps_mischiefOp (hc : c.Valid) : Keeps (State.Inside c n Q) mischiefOp :=
  keeps_cfg <| keeps_bind (keeps_readCell hc .mischiefEn) fun _ => keeps_ite (keeps_mischiefArmed hc) (keeps_pure ())

theorem keeps_extendOp (hc : c.Valid) : Keeps (State.Inside c n Q) extendOp :=
  keeps_cfg <| keeps_bind (keeps_readCell hc .extend) fun _ => keeps_writeCell hc .extend _

theorem keeps_copyByte (hc : c.Valid) (x : Fin 3) (t : Byte) : Keeps (State.Inside c n Q) (copyByte x t) :=
  keeps_cfg <| keeps_bind (keeps_readCell hc (.xlIndex x)) fun _ => keeps_bind (keeps_readCell hc (.xlOffset x)) fun o =>
    keeps_bind (keeps_memWrite hc (hc.inShared_window x o) _) fun _ => keeps_writeCell hc (.xlStatus x) _

theorem keeps_fire (hc : c.Valid) (x : Fin 3) : Keeps (State.Steady c (xlatSlot x)) (fire x) :=
  keeps_cfg <| keeps_bind (keeps_readCell hc (.xlTable x)) fun t => triple_ite
    (fun ht => keeps_raise hc _ (fun _ hp => ⟨hp, ht⟩) nofun)
    (fun _ => keeps_copyByte hc x t)

theorem keeps_translator (hc : c.Valid) (x : Fin 3) : Keeps (State.Steady c (xlatSlot x)) (translator x) :=
  keeps_cfg <| keeps_bind (keeps_readCell hc (.xlStatus x)) fun _ => keeps_ite (keeps_fire hc x) (keeps_pure ())

theorem keeps_resetWatcherOp (hc : c.Valid) : Keeps (State.Inside c n Q) resetWatcherOp :=
  keeps_cfg <| keeps_bind (keeps_readCell hc .resetCmd) fun _ =>
    keeps_ite (triple_restartNow fun _ h => inv_restart (h.cfg ▸ hc) h.memory) (keeps_pure ())

theorem keeps_delayOp (hc : c.Valid) : Keeps (State.Inside c n Q) delayOp :=
  keeps_cfg <| keeps_bind (keeps_readCell hc .delayMarker) fun _ => keeps_ite (keeps_pure ()) (keeps_pure ())

/-! #### Every slot -/

/-- Every slot keeps the invariant of a running machine, and ends early in a state with `State.Inv` only. -/
theorem keeps_slotOps (hc : c.Valid) (n : Fin 21) : Keeps (State.Steady c n) slotOps[n] := by
  fin_cases n
  · exact keeps_irqOp hc
  · exact keeps_inputRelayOp hc
  · exact keeps_creditOp hc
  · exact keeps_lockOp hc
  · exact keeps_creditController hc 0
  · exact keeps_creditController hc 1
  · exact keeps_levelController hc
  · exact keeps_beastieRelay hc 0
  · exact keeps_beastieRelay hc 1
  · exact keeps_creeper hc 0
  · exact keeps_creeper hc 1
  · exact keeps_creeper hc 2
  · exact keeps_creeper hc 3
  · exact keeps_clockOp hc
  · exact keeps_mischiefOp hc
  · exact keeps_extendOp hc
  · exact keeps_translator hc 0
  · exact keeps_translator hc 1
  · exact keeps_translator hc 2
  · exact keeps_resetWatcherOp hc
  · exact keeps_delayOp hc

end

/-- A slot completes in a state its operation's triple admits, `pc` moved on, or ends early. -/
theorem triple_runSlot {E P : State → Prop} {Q : Unit → State → Prop} {n : Fin 21} {op : SlotM Unit}
    (h : Triple E P op Q) {s t : State} (hs : P { s with pc := .slot n }) (e : runSlot n op s = .next t) :
    (∃ u, Q () u ∧ t = { u with pc := nextPc n }) ∨ E t := by
  have h1 := h _ hs
  unfold runSlot at e
  cases hr : op.run { s with pc := .slot n } with
  | ok a u =>
    rw [hr] at h1 e
    cases e
    exact .inl ⟨u, h1, rfl⟩
  | error x u =>
    rw [hr] at h1 e
    cases e
    exact .inr h1

theorem inv_runSlot {s t : State} {n : Fin 21} (h : s.Inv) (hr : s.status = .running)
    (e : runSlot n slotOps[n] s = .next t) : t.Inv := by
  rcases triple_runSlot (keeps_slotOps h.cfgValid n) (steady_of_inv h hr) e with ⟨u, hu, rfl⟩ | ht
  · exact inv_of_steady h.cfgValid hu (nextPc n)
  · exact ht

/-- Settles O50: a slot by its triple, a host-script line by the few fields it changes. -/
theorem invKept : Obligations.InvKept := by
  intro s t h e
  rcases step_cases e with ⟨n, hr, -, e⟩ | ⟨-, i, rest, hi, e⟩
  · exact inv_runSlot h hr e
  · exact inv_scriptLine (inv_script h rest) hi e

end Sys2Proof.Machine

/-!
PROOFS. The statements about the state: which slot writes which register, the output trace, the dispatch of a slot, the held
input bytes. Everything a slot can do is a chain of moves (`Move`), each of which writes one register, one cell or one field
of the environment; `moves_slotOps` says so of every slot, and a fact about slots is then one case analysis of `Move`.
-/

namespace Sys2Proof.Machine

/-! ### Single lines and the dispatch of a slot -/

/-- The fetch inside a tick (rules R23, R60). -/
theorem fetch_slot {s : State} {n : Fin 21} {i : Instr} (hr : s.status = .running) (hp : s.pc = .slot n)
    (hd : decodeSlot (slotWord n) = .ok i) : s.fetch = .run i s := by
  simp only [State.fetch, hr, hp, State.fetchSlot, hd]

/-- Settles O5: the fetch gives the decoded slot at the unchanged state. -/
theorem stepRunsSlot : Obligations.StepRunsSlot := by
  intro s n i hr hp hd
  have hf : s.fetch = .run i s := fetch_slot hr hp hd
  rw [step, hf]

/-- A bus read of an input register is an input sample (rules R41, R43). -/
theorem busRead_input (s : State) (b : Fin 4) : s.busRead b.val = some (s.sampleBank b) := dif_pos b.isLt

/-- An input sample counts draws at most, and draws nothing where a byte is held (rule R32). -/
theorem sampleBank_held (s : State) (b : Fin 4) :
    ∃ x d, s.sampleBank b = (x, { s with draws := d }) ∧ ∀ y, s.heldBank[b] = some y → x = y ∧ d = s.draws := by
  rcases sampleBank_cases s b with ⟨v, hv, e⟩ | ⟨hn, e⟩
  · exact ⟨v, s.draws, e, fun y hy => ⟨Option.some.inj (hv.symm.trans hy), rfl⟩⟩
  · exact ⟨_, _, e, fun y hy => absurd (hn.symm.trans hy) nofun⟩

/-- `HR` of an input register records the sample (rule R73). -/
theorem execHr_input (s : State) (b : Fin 4) (w : Byte) :
    exec (.hr (BitVec.ofNat 16 b.val) w) s =
      .next { (s.sampleBank b).2 with
        hostReads := (s.sampleBank b).2.hostReads ++ [⟨BitVec.ofNat 16 b.val, (s.sampleBank b).1, w⟩] } := by
  have ha : (BitVec.ofNat 16 b.val).toNat = b.val := by
    rw [BitVec.toNat_ofNat, Nat.mod_eq_of_lt (by omega)]
  show execHr _ w s = _
  rw [execHr, ha, busRead_input]

/-- Settles O46: the two lines by their equations, the HOST's read by the sample it records. -/
theorem inputDevice : Obligations.InputDevice := by
  intro s b v w
  obtain ⟨x, d, hs, hheld⟩ := sampleBank_held s b
  refine ⟨rfl, rfl, x, d, ?_, hheld⟩
  rw [execHr_input, hs]

/-! ### The moves of a slot -/

/-- One thing that can happen while slot `n` runs. A register or a port can change only in the slot that rule R10 (rules
R24 to R26 for the ports) names for it. -/
inductive Move (n : Fin 21) (s : State) : State → Prop
  -- the environment (rules R231, R52, R32)
  | count (k : Nat) (later : List Nat) (h : s.coldResets = (k + 1) :: later) : Move n s { s with coldResets := k :: later }
  | cold (later : List Nat) (h : s.coldResets = 0 :: later) : Move n s { s with coldResets := later }.restart
  | race (ws : List HostWrite) (r : List (List HostWrite)) (h : s.cfg.hostInterleave = true)
      (h' : s.hostRace = ws :: r) : Move n s { s with shared := s.shared.hostWrites ws, hostRace := r }
  | draw (d : Nat) : Move n s { s with draws := d }
  -- any slot
  | store (a : Nat) (v : Byte) (h : InShared a) : Move n s { s with shared := s.shared.put a v }
  | stop (st : Status) : Move n s { s with status := st }
  | goto (p : Pc) : Move n s { s with pc := p }
  -- the registers and ports, each in its slot
  | irq (l : Bool) (hn : n = 0) : Move n s (s.drive .irqOut l)
  | bank (v : Vector Byte 4) (hn : n = 1) : Move n s { s with bank := v }
  | cabLatch (v : Byte) (hn : n = 1) : Move n s { s with cabLatch := v }
  | prev (v : Vector Bool 3) (hn : n = 2) : Move n s { s with prev := v }
  | partialCoins (v : Vector Byte 2) (hn : n = 2) : Move n s { s with partialCoins := v }
  | lock (l : Bool) (hn : n = 2 ∨ n = 3) : Move n s (s.drive .lockout l)
  | ctrlCache (c : Fin 3) (v : Byte) (hn : n = ctrlSlot c) : Move n s { s with ctrlCache := s.ctrlCache.set c v }
  | pY (v : Byte) (hn : n = 7 ∨ n = 8) : Move n s { s with pY := v }
  | pX (v : Byte) (hn : n = 7 ∨ n = 8) : Move n s { s with pX := v }
  | yOverlap (v : Byte) (hn : n = 7 ∨ n = 8) : Move n s { s with yOverlap := v }
  | beastIdx (v : BitVec 3) (hn : n = 7 ∨ n = 8) : Move n s { s with beastIdx := v }
  | creepTable (k : Fin 4) (v : Byte) (hn : n = creepSlot k) : Move n s { s with creepTable := s.creepTable.set k v }
  | creepIdx (k : Fin 4) (v : Byte) (hn : n = creepSlot k) : Move n s { s with creepIdx := s.creepIdx.set k v }
  -- the reset watcher (rule R196)
  | restart (hn : n = 19) : Move n s s.restart

/-- A chain of moves of slot `n`. -/
abbrev Moves (n : Fin 21) : State → State → Prop := Relation.ReflTransGen (Move n)

/-- The piece `m` of slot `n` makes moves of that slot only. -/
abbrev MovesBy {α : Type} (n : Fin 21) (m : SlotM α) : Prop := Steps (Moves n) m

theorem Move.moves {n : Fin 21} {s t : State} (h : Move n s t) : Moves n s t := .single h

theorem closed_moves (n : Fin 21) : Closed (Moves n) where
  refl _ := .refl
  trans _ _ _ := .trans
  count _ k later h := (Move.count k later h).moves
  cold _ later h := (Move.cold later h).moves
  race _ ws r h h' := (Move.race ws r h h').moves
  draw _ d := (Move.draw d).moves

/-! #### The pieces -/

section
variable {α β : Type} {n : Fin 21}

theorem moves_pure (a : α) : MovesBy n (pure a : SlotM α) := steps_pure (closed_moves n) a

theorem moves_reg (f : State → α) : MovesBy n (reg f) := steps_reg (closed_moves n) f

theorem moves_bind {m : SlotM α} {f : α → SlotM β} (hm : MovesBy n m) (hf : ∀ a, MovesBy n (f a)) :
    MovesBy n (m >>= f) :=
  steps_bind (closed_moves n) hm hf

/-- What follows a register read makes moves of slot `n` whatever the register holds. -/
theorem moves_reg_bind {f : State → α} {g : α → SlotM β} (h : ∀ a, MovesBy n (g a)) : MovesBy n (reg f >>= g) :=
  moves_bind (moves_reg f) h

theorem moves_ite {p : Prop} [Decidable p] {m m' : SlotM α} (h : MovesBy n m) (h' : MovesBy n m') :
    MovesBy n (if p then m else m') :=
  steps_ite h h'

theorem moves_update {f : State → State} (h : ∀ s, Move n s (f s)) : MovesBy n (update f) :=
  steps_update f fun s => (h s).moves

theorem moves_raise (st : Status) : MovesBy n (raise st : SlotM α) := steps_raise st fun _ => (Move.stop st).moves

theorem moves_memRead (a : Nat) : MovesBy n (memRead a) :=
  steps_memRead (closed_moves n) a (.inr (.inr fun _ => (Move.stop _).moves))

theorem moves_memWrite (a : Nat) (v : Byte) : MovesBy n (memWrite a v) :=
  steps_memWrite (closed_moves n) a v (fun h _ => (Move.store a v h).moves) (.inr fun _ => (Move.stop _).moves)

theorem moves_lockDrive (hn : n = 2 ∨ n = 3) (l : Bool) : MovesBy n (portWrite .lockout l) :=
  steps_portWrite (closed_moves n) _ l fun _ => (Move.lock l hn).moves

end

/-! #### The slots -/

theorem moves_pulse : MovesBy 0 pulse :=
  have drive (l : Bool) : MovesBy 0 (portWrite .irqOut l) :=
    steps_portWrite (closed_moves 0) _ l fun _ => (Move.irq l rfl).moves
  moves_bind (drive _) fun _ => moves_bind (drive _) fun _ => drive _

theorem moves_irqOp : MovesBy 0 irqOp :=
  moves_reg_bind fun _ => moves_bind (moves_memRead _) fun _ => moves_ite moves_pulse (moves_pure ())

theorem moves_relayBank (b : Fin 4) : MovesBy 1 (relayBank b) :=
  moves_reg_bind fun _ => moves_bind (moves_memRead _) fun _ =>
    moves_bind (moves_update fun _ => .bank _ rfl) fun _ => moves_memWrite _ _

theorem moves_inputRelayOp : MovesBy 1 inputRelayOp :=
  moves_reg_bind fun _ => moves_bind (steps_readCab (closed_moves 1)) fun _ =>
    moves_bind (moves_update fun _ => .cabLatch _ rfl) fun _ => moves_bind (moves_memWrite _ _) fun _ =>
      moves_bind (moves_relayBank 0) fun _ => moves_bind (moves_relayBank 1) fun _ =>
        moves_bind (moves_relayBank 2) fun _ => moves_relayBank 3

theorem moves_award {n : Fin 21} (a : Byte) : MovesBy n (award a) :=
  moves_reg_bind fun _ => moves_bind (moves_memRead _) fun _ =>
    moves_bind (moves_memWrite _ _) fun _ => moves_memWrite _ _

theorem moves_accumulate (l : Fin 2) (p : Price) : MovesBy 2 (accumulate l p) :=
  moves_bind (moves_update fun _ => .partialCoins _ rfl) fun _ => moves_reg_bind fun _ => moves_ite
    (moves_bind (moves_update fun _ => .partialCoins _ rfl) fun _ => moves_award _)
    (moves_pure ())

theorem moves_edge (g : Signal) (now : Bool) : MovesBy 2 (edge g now) :=
  moves_reg_bind fun _ => moves_bind (moves_update fun _ => .prev _ rfl) fun _ => moves_pure _

theorem moves_coinLine (l : Fin 2) : MovesBy 2 (coinLine l) :=
  have fell : MovesBy 2 (coinFell l) := moves_reg_bind fun _ => moves_ite (moves_accumulate l _) (moves_award _)
  moves_reg_bind fun _ => moves_bind (moves_edge _ _) fun _ => moves_ite fell (moves_pure ())

theorem moves_serviceLine : MovesBy 2 serviceLine :=
  have fell : MovesBy 2 serviceFell :=
    moves_reg_bind fun _ => moves_bind (moves_memRead _) fun _ =>
      moves_ite (moves_lockDrive (.inl rfl) true) (moves_award 1)
  moves_reg_bind fun _ => moves_bind (moves_edge _ _) fun _ => moves_ite fell (moves_pure ())

theorem moves_threshold : MovesBy 2 threshold :=
  moves_reg_bind fun _ => moves_bind (moves_memRead _) fun _ =>
    moves_ite (moves_lockDrive (.inl rfl) true) (moves_lockDrive (.inl rfl) false)

theorem moves_creditOp : MovesBy 2 creditOp :=
  moves_bind (moves_coinLine 0) fun _ => moves_bind (moves_coinLine 1) fun _ =>
    moves_bind moves_serviceLine fun _ => moves_threshold

theorem moves_lockOp : MovesBy 3 lockOp :=
  moves_reg_bind fun _ => moves_bind (moves_memRead _) fun _ =>
    moves_ite (moves_lockDrive (.inr rfl) true) (moves_ite (moves_lockDrive (.inr rfl) false) (moves_pure ()))

theorem moves_complete (c : Fin 3) (r : Byte) : MovesBy (ctrlSlot c) (complete c r) :=
  moves_reg_bind fun _ => moves_bind (moves_memWrite _ _) fun _ =>
    moves_bind (moves_update fun _ => .ctrlCache c r rfl) fun _ => moves_memWrite _ _

theorem moves_operand {n : Fin 21} (c : Fin 3) : MovesBy n (operand c) := by
  refine moves_reg_bind fun cfg => ?_
  cases cfg.ctrlOperand with
  | cache => exact moves_reg _
  | output => exact moves_memRead _

theorem moves_incCommand (c : Fin 3) : MovesBy (ctrlSlot c) (incCommand c) :=
  moves_reg_bind fun _ => moves_bind (moves_operand c) fun _ => moves_complete c _

theorem moves_creditCommand (k : Fin 2) (op : CreditOp) : MovesBy (ctrlSlot k.castSucc) (creditCommand k op) := by
  cases op with
  | derive => exact moves_reg_bind fun _ => moves_reg_bind fun _ => moves_complete _ _
  | inc => exact moves_incCommand _
  | dec => exact moves_bind (moves_operand _) fun _ => moves_complete _ _
  | setMax => exact moves_reg_bind fun _ => moves_complete _ _

theorem moves_levelCommand (op : LevelOp) : MovesBy (ctrlSlot 2) (levelCommand op) := by
  cases op with
  | inc => exact moves_incCommand 2
  | set00 | set31 | set62 | set63 | set64 | set65 => exact moves_reg_bind fun _ => moves_complete 2 _

/-- The diagnostic writes no register (rule R128). -/
theorem moves_diagnostic {n : Fin 21} (c : Fin 3) : MovesBy n (diagnostic c) :=
  have check : MovesBy n (consistencyCheck c) :=
    moves_reg_bind fun _ => moves_bind (moves_memRead _) fun _ => moves_reg_bind fun _ =>
      moves_ite (moves_raise _) (moves_pure ())
  moves_reg_bind fun _ => moves_bind (moves_memRead _) fun _ => moves_ite check (moves_pure ())

theorem moves_creditController (k : Fin 2) : MovesBy (ctrlSlot k.castSucc) (creditController k) := by
  refine moves_reg_bind fun cfg => moves_bind (moves_memRead _) fun cmd => moves_ite (moves_diagnostic _) ?_
  cases cfg.creditMap[k].op cmd with
  | some op => exact moves_creditCommand k op
  | none => exact moves_raise _

theorem moves_levelController : MovesBy (ctrlSlot 2) levelController := by
  refine moves_reg_bind fun cfg => moves_bind (moves_memRead _) fun cmd => moves_ite (moves_diagnostic _) ?_
  cases cfg.levelMap.op cmd with
  | some op => exact moves_levelCommand op
  | none => exact moves_raise _

section
variable {n : Fin 21}

theorem moves_countYOverlap (hn : n = 7 ∨ n = 8) (d : Byte) : MovesBy n (countYOverlap d) := by
  refine steps_update _ fun s => ?_
  split
  · exact (Move.yOverlap _ hn).moves
  · exact .refl

theorem moves_killRequest (p : Fin 2) : MovesBy n (killRequest p) :=
  moves_reg_bind fun _ => moves_bind (moves_memRead _) fun _ => moves_ite
    (moves_bind (moves_memWrite _ _) fun _ => moves_reg_bind fun _ => moves_bind (moves_memWrite _ _) fun _ => moves_pure _)
    (moves_pure _)

theorem moves_liveBeastie (hn : n = 7 ∨ n = 8) (p : Fin 2) (i : Fin 7) : MovesBy n (liveBeastie p i) :=
  have vertical : MovesBy n (verticalResult p i) :=
    moves_reg_bind fun _ => moves_bind (moves_memRead _) fun _ => moves_reg_bind fun _ =>
      moves_bind (moves_memWrite _ _) fun _ => moves_bind (moves_memWrite _ _) fun _ => moves_countYOverlap hn _
  have horizontal : MovesBy n (horizontalResult p i) :=
    moves_reg_bind fun _ => moves_bind (moves_memRead _) fun _ => moves_reg_bind fun _ =>
      moves_bind (moves_memWrite _ _) fun _ => moves_bind (moves_memWrite _ _) fun _ => moves_pure _
  moves_bind vertical fun _ => moves_bind horizontal fun _ => moves_reg_bind fun _ =>
    moves_ite (moves_killRequest p) (moves_pure _)

theorem moves_sweep (hn : n = 7 ∨ n = 8) (p : Fin 2) (l : List (Fin 7)) : MovesBy n (sweep p l) := by
  induction l with
  | nil => exact moves_pure ()
  | cons i rest ih =>
    have visit : MovesBy n (visitBeastie p i) :=
      moves_reg_bind fun _ => moves_bind (moves_update fun _ => .beastIdx _ hn) fun _ =>
        moves_bind (moves_memRead _) fun _ => moves_ite (moves_liveBeastie hn p i) (moves_pure _)
    exact moves_bind visit fun _ => moves_ite (moves_pure ()) ih

theorem moves_beastieRelay (hn : n = 7 ∨ n = 8) (p : Fin 2) : MovesBy n (beastieRelay p) :=
  have live : MovesBy n (livePlayer p) :=
    moves_reg_bind fun _ => moves_bind (moves_memRead _) fun _ => moves_bind (moves_update fun _ => .pX _ hn) fun _ =>
      moves_bind (moves_memRead _) fun _ => moves_bind (moves_update fun _ => .pY _ hn) fun _ =>
        moves_bind (moves_update fun _ => .yOverlap _ hn) fun _ => moves_sweep hn p _
  moves_reg_bind fun _ => moves_bind (moves_memRead _) fun _ => moves_ite live (moves_pure ())

theorem moves_clockOp : MovesBy n clockOp :=
  have count : MovesBy n clockCount :=
    moves_reg_bind fun _ => moves_bind (moves_memRead _) fun _ => moves_bind (moves_memRead _) fun _ => moves_ite
      (moves_bind (moves_memWrite _ _) fun _ => moves_memWrite _ _)
      (moves_bind (moves_memWrite _ _) fun _ => moves_memWrite _ _)
  moves_reg_bind fun _ => moves_bind (moves_memRead _) fun _ => moves_ite (moves_pure ()) count

theorem moves_mischiefOp : MovesBy n mischiefOp :=
  have armed : MovesBy n mischiefArmed :=
    moves_reg_bind fun _ => moves_reg_bind fun _ => moves_ite (moves_memWrite _ _) (moves_pure ())
  moves_reg_bind fun _ => moves_bind (moves_memRead _) fun _ => moves_ite armed (moves_pure ())

theorem moves_extendOp : MovesBy n extendOp :=
  moves_reg_bind fun _ => moves_bind (moves_memRead _) fun _ => moves_memWrite _ _

theorem moves_translator (x : Fin 3) : MovesBy n (translator x) :=
  have copy (m : Byte) : MovesBy n (copyByte x m) :=
    moves_reg_bind fun _ => moves_bind (moves_memRead _) fun _ => moves_bind (moves_memRead _) fun _ =>
      moves_bind (moves_memWrite _ _) fun _ => moves_memWrite _ _
  have fires : MovesBy n (fire x) :=
    moves_reg_bind fun _ => moves_bind (moves_memRead _) fun m => moves_ite (moves_raise _) (copy m)
  moves_reg_bind fun _ => moves_bind (moves_memRead _) fun _ => moves_ite fires (moves_pure ())

theorem moves_delayOp : MovesBy n delayOp :=
  moves_reg_bind fun _ => moves_bind (moves_memRead _) fun _ => moves_ite (moves_pure ()) (moves_pure ())

end

theorem moves_emitCreeper (k : Fin 4) (m i : Byte) : MovesBy (creepSlot k) (emitCreeper k m i) :=
  moves_reg_bind fun _ => moves_bind (moves_memWrite _ _) fun _ => moves_update fun _ => .creepIdx k _ rfl

theorem moves_creeper (k : Fin 4) : MovesBy (creepSlot k) (creeper k) :=
  have boundary : MovesBy (creepSlot k) (creeperBoundary k) :=
    moves_reg_bind fun _ => moves_bind (moves_memRead _) fun m =>
      moves_bind (moves_update fun _ => .creepTable k _ rfl) fun _ =>
        moves_ite (moves_raise _) (moves_emitCreeper k m 0)
  have refuse (m : Byte) : MovesBy (creepSlot k) (refuseLatched k m) :=
    moves_bind (steps_coldResetPoint (closed_moves _)) fun _ => moves_raise _
  moves_reg_bind fun _ => moves_reg_bind fun m => moves_reg_bind fun i =>
    moves_ite (refuse m) (moves_ite boundary (moves_emitCreeper k m i))

theorem moves_resetWatcherOp : MovesBy 19 resetWatcherOp :=
  moves_reg_bind fun _ => moves_bind (moves_memRead _) fun _ =>
    moves_ite (steps_restartNow fun _ => (Move.restart rfl).moves) (moves_pure ())

theorem moves_slotOps (n : Fin 21) : MovesBy n slotOps[n] := by
  fin_cases n
  · exact moves_irqOp
  · exact moves_inputRelayOp
  · exact moves_creditOp
  · exact moves_lockOp
  · exact moves_creditController 0
  · exact moves_creditController 1
  · exact moves_levelController
  · exact moves_beastieRelay (.inl rfl) 0
  · exact moves_beastieRelay (.inr rfl) 1
  · exact moves_creeper 0
  · exact moves_creeper 1
  · exact moves_creeper 2
  · exact moves_creeper 3
  · exact moves_clockOp
  · exact moves_mischiefOp
  · exact moves_extendOp
  · exact moves_translator 0
  · exact moves_translator 1
  · exact moves_translator 2
  · exact moves_resetWatcherOp
  · exact moves_delayOp

theorem moves_runSlot {n : Fin 21} {s t : State} (e : runSlot n slotOps[n] s = .next t) : Moves n s t :=
  steps_runSlot (closed_moves n) (fun _ p => (Move.goto p).moves) (moves_slotOps n) e

/-! ### The registers of the other slots -/

/-- Without a cold reset to come, none comes up. -/
theorem Move.coldResets_nil {n : Fin 21} {s t : State} (h : Move n s t) (hc : s.coldResets = []) : t.coldResets = [] := by
  cases h with
  | count k later h => exact absurd (hc.symm.trans h) nofun
  | cold later h => exact absurd (hc.symm.trans h) nofun
  | irq | lock => simpa using hc
  | _ => exact hc

theorem Moves.coldResets_nil {n : Fin 21} {s t : State} (h : Moves n s t) (hc : s.coldResets = []) :
    t.coldResets = [] := by
  induction h with
  | refl => exact hc
  | tail _ h ih => exact h.coldResets_nil ih

/-- Every register and port that no rule lets slot `n` write is the same in both states. -/
def OthersKept (n : Fin 21) (s t : State) : Prop :=
  (n ≠ 1 → t.bank = s.bank ∧ t.cabLatch = s.cabLatch) ∧
  (n ≠ 2 → t.prev = s.prev ∧ t.partialCoins = s.partialCoins) ∧
  (∀ c : Fin 3, n.val ≠ 4 + c.val → t.ctrlCache[c] = s.ctrlCache[c]) ∧
  (∀ k : Fin 4, n.val ≠ 9 + k.val → t.creepTable[k] = s.creepTable[k] ∧ t.creepIdx[k] = s.creepIdx[k]) ∧
  (n ≠ 7 → n ≠ 8 → t.pY = s.pY ∧ t.pX = s.pX ∧ t.yOverlap = s.yOverlap ∧ t.beastIdx = s.beastIdx) ∧
  (n ≠ 0 → t.irqOut = s.irqOut) ∧ (n ≠ 2 → n ≠ 3 → t.lockout = s.lockout)

theorem OthersKept.refl (n : Fin 21) (s : State) : OthersKept n s s := by simp [OthersKept]

theorem OthersKept.trans {n : Fin 21} {s t u : State} (h : OthersKept n s t) (h' : OthersKept n t u) :
    OthersKept n s u := by
  grind [OthersKept]

/-- Replicas of one subsystem in different slots, counted from slot `b`, have different registers. -/
theorem set_otherReplica (b : Nat) {m : Nat} (v : Vector Byte m) (x : Byte) (c c' : Fin m) (h : b + c.val ≠ b + c'.val) :
    (v.set c x)[c'] = v[c'] :=
  Vector.getElem_set_ne c.isLt c'.isLt (by omega)

theorem Move.othersKept {n : Fin 21} {s t : State} (h : Move n s t) (hn : n ≠ 19) (hc : s.coldResets = []) :
    OthersKept n s t := by
  cases h with
  | count k later h => exact absurd (hc.symm.trans h) nofun
  | cold later h => exact absurd (hc.symm.trans h) nofun
  | race | draw | store | stop | goto => exact OthersKept.refl n s
  | irq l h | bank v h | cabLatch v h | prev v h | partialCoins v h => subst h; simp [OthersKept]
  | lock l h | pY v h | pX v h | yOverlap v h | beastIdx v h => rcases h with rfl | rfl <;> simp [OthersKept]
  | ctrlCache c v h =>
    subst h
    have others := set_otherReplica 4 s.ctrlCache v c
    simpa [OthersKept, ctrlSlot] using others
  | creepTable k v h =>
    subst h
    have others := set_otherReplica 9 s.creepTable v k
    simpa [OthersKept, creepSlot] using others
  | creepIdx k v h =>
    subst h
    have others := set_otherReplica 9 s.creepIdx v k
    simpa [OthersKept, creepSlot] using others
  | restart h => exact absurd h hn

theorem Moves.othersKept {n : Fin 21} {s t : State} (h : Moves n s t) (hn : n ≠ 19) (hc : s.coldResets = []) :
    OthersKept n s t := by
  induction h with
  | refl => exact OthersKept.refl n s
  | tail h h' ih => exact ih.trans (h'.othersKept hn (Moves.coldResets_nil h hc))

/-- Settles O53: a slot is a chain of its own moves, and none of them writes another slot's register. -/
theorem registerOwners : Obligations.RegisterOwners := by
  intro s t n hc hr hp hn e
  exact (moves_runSlot (step_slot hr hp ▸ e)).othersKept hn hc

/-! ### The output trace -/

/-- The ports of `t` hold the level last driven in `d`, or that of `s` (rules R25, R26). -/
def PortsFollow (d : List (Port × Bool)) (s t : State) : Prop :=
  t.irqOut = (lastLevel .irqOut d).getD s.irqOut ∧ t.lockout = (lastLevel .lockout d).getD s.lockout

/-- The drives of a later stretch come after, and over, those of an earlier one. -/
theorem lastLevel_append (p : Port) (d d' : List (Port × Bool)) :
    lastLevel p (d ++ d') = (lastLevel p d').or (lastLevel p d) := by
  simp [lastLevel, List.getLast?_append, Option.map_or]

theorem PortsFollow.trans {d d' : List (Port × Bool)} {s t u : State} (h : PortsFollow d s t) (h' : PortsFollow d' t u) :
    PortsFollow (d ++ d') s u := by
  obtain ⟨hi, hl⟩ := h
  obtain ⟨hi', hl'⟩ := h'
  simp only [PortsFollow, lastLevel_append, Option.getD_or, hi', hi, hl', hl, and_self]

theorem portsFollow_drive (s : State) (p : Port) (l : Bool) : PortsFollow [(p, l)] s (s.drive p l) := by
  cases p <;> simp [PortsFollow, lastLevel]

/-- From `s` to `t` drives were appended to the trace, and outside slot 19, with no cold reset due, the ports followed them. -/
def Drives (n : Fin 21) (s t : State) : Prop :=
  ∃ d, t.trace = s.trace ++ d ∧ (s.coldResets = [] → n ≠ 19 → PortsFollow d s t)

/-- Where no port is driven, the trace stays. -/
theorem drives_of_quiet {n : Fin 21} {s t : State} (ht : t.trace = s.trace)
    (hp : s.coldResets = [] → n ≠ 19 → t.irqOut = s.irqOut ∧ t.lockout = s.lockout) : Drives n s t :=
  ⟨[], by rw [ht, List.append_nil], hp⟩

theorem Move.drives {n : Fin 21} {s t : State} (h : Move n s t) : Drives n s t := by
  cases h with
  | irq l | lock l => exact ⟨_, State.drive_trace s _ l, fun _ _ => portsFollow_drive s _ l⟩
  | cold later h => exact drives_of_quiet rfl fun hc => absurd (hc.symm.trans h) nofun
  | restart h => exact drives_of_quiet rfl fun _ hn => absurd h hn
  | _ => exact drives_of_quiet rfl fun _ _ => ⟨rfl, rfl⟩

theorem Moves.drives {n : Fin 21} {s t : State} (h : Moves n s t) : Drives n s t := by
  induction h with
  | refl => exact drives_of_quiet rfl fun _ _ => ⟨rfl, rfl⟩
  | tail h h' ih =>
    obtain ⟨d, hd, hf⟩ := ih
    obtain ⟨d', hd', hf'⟩ := h'.drives
    refine ⟨d ++ d', by rw [hd', hd, List.append_assoc], fun hc hn => ?_⟩
    exact (hf hc hn).trans (hf' (Moves.coldResets_nil h hc) hn)

/-- A host-script line drives no port, and a reset keeps the trace (rule R230). -/
theorem trace_scriptLine {s t : State} {i : Instr} (hi : ScriptLine i) (e : exec i s = .next t) : t.trace = s.trace := by
  cases hi with
  | hw a v =>
    change execHw a v s = _ at e
    unfold execHw State.busWrite at e
    by_cases ha : InShared a.toNat
    · simp only [if_pos ha] at e
      cases e
      rfl
    · simp only [if_neg ha] at e
      cases e
  | hr a v =>
    change execHr a v s = _ at e
    unfold execHr at e
    split at e
    · rename_i x u hb
      obtain ⟨d, rfl⟩ := busRead_draws hb
      cases e
      rfl
    · cases e
  | inp b v | cab v | reset => cases e; rfl
  | tick => cases e; exact State.trigger_trace s

/-- Settles O55: a slot by its moves, a host-script line by the trace it leaves alone. -/
theorem outputTrace : Obligations.OutputTrace := by
  intro s t e
  rcases step_cases e with ⟨n, -, hp, e⟩ | ⟨hi, i, rest, hl, e⟩
  · obtain ⟨d, hd, hf⟩ := (moves_runSlot e).drives
    exact ⟨d, hd, fun hc _ _ h19 => hf hc fun h => h19 (h ▸ hp)⟩
  · refine ⟨[], ?_, fun _ hr hp _ => absurd (hi hr) hp⟩
    rw [trace_scriptLine hl e, List.append_nil]

end Sys2Proof.Machine

/-!
PROOFS. The statements about the HOST and `Shared`. First the bus accesses of either agent, outside the regions too; then
tick atomicity (rule R51): a slot sees the environment's schedules at its access points only (`AccessesOnly`); then the two
races with one HOST write under `HOST_INTERLEAVE` (rule R52), which `Racing` follows from access to access.
-/

namespace Sys2Proof.Machine

/-! ### The bus, and the HOST's lines (rules R42, R43, R73) -/

theorem busRead_shared (s : State) {a : Nat} (h : InShared a) : s.busRead a = some (s.shared.get a, s) := by
  rcases busRead_cases s a with ⟨hi, -⟩ | ⟨-, -, e⟩ | ⟨-, hn, -⟩
  · exact absurd h.1 (by omega)
  · exact e
  · exact absurd h hn

theorem busRead_outside (s : State) {a : Nat} (h : ¬ InShared a) (hi : ¬ InInputs a) : s.busRead a = none := by
  rcases busRead_cases s a with ⟨h', -⟩ | ⟨-, h', -⟩ | ⟨-, -, e⟩
  · exact absurd h' hi
  · exact absurd h' h
  · exact e

theorem busWrite_shared (s : State) {a : Nat} (h : InShared a) (v : Byte) :
    s.busWrite a v = some { s with shared := s.shared.put a v } :=
  if_pos h

theorem busWrite_outside (s : State) {a : Nat} (h : ¬ InShared a) (v : Byte) : s.busWrite a v = none := if_neg h

theorem execHw_shared (s : State) {a : Half} (h : InShared a.toNat) (v : Byte) :
    exec (.hw a v) s = .next { s with shared := s.shared.put a.toNat v } := by
  show execHw a v s = _
  rw [execHw, busWrite_shared s h]

theorem execHr_shared (s : State) {a : Half} (h : InShared a.toNat) (v : Byte) :
    exec (.hr a v) s = .next { s with hostReads := s.hostReads ++ [⟨a, s.shared.get a.toNat, v⟩] } := by
  show execHr a v s = _
  rw [execHr, busRead_shared s h]

theorem execHw_outside (s : State) {a : Half} (h : ¬ InShared a.toNat) (v : Byte) :
    exec (.hw a v) s = .fault (.hostAddressOutOfRange a.toNat) := by
  show execHw a v s = _
  rw [execHw, busWrite_outside s h]

theorem execHr_outside (s : State) {a : Half} (h : ¬ InShared a.toNat) (hi : ¬ InInputs a.toNat) (v : Byte) :
    exec (.hr a v) s = .fault (.hostAddressOutOfRange a.toNat) := by
  show execHr a v s = _
  rw [execHr, busRead_outside s h hi]

/-- Settles O39: the slots' accesses outside the regions, each by its rule. -/
theorem addressOutOfRange : Obligations.AddressOutOfRange := by
  rintro s a v ⟨hc, hr⟩ ha
  exact ⟨fun hi => run_memRead_outside s a hc hr hi ha, run_memWrite_outside s a v hc hr ha⟩

/-- Settles O45: the two lines by their equations, the frame by the law of a read after a write. -/
theorem hostBus : Obligations.HostBus := by
  intro s a v ha
  refine ⟨⟨s.shared.put a.toNat v, execHw_shared s ha v, ?_, fun b hb => ?_⟩, execHr_shared s ha v⟩
  · rw [Memory.get_put, if_pos rfl]
  · rw [Memory.get_put, if_neg hb]

/-- Settles O47: neither line finds a cell on the bus. -/
theorem hostAddressFault : Obligations.HostAddressFault :=
  fun s _ v ha => ⟨execHw_outside s ha v, fun hi => execHr_outside s ha hi v⟩

/-! ### What a slot sees of the environment's schedules -/

/-- `s` with other schedules of HOST writes and of cold resets inside ticks. -/
def State.scheduled (s : State) (race : List (List HostWrite)) (resets : List Nat) : State :=
  { s with hostRace := race, coldResets := resets }

/-- `m` is put together from accesses and from register reads and writes, and only the two access points look at the
schedules. The default proofs are for a field that is no schedule. -/
inductive AccessesOnly : {α : Type} → SlotM α → Prop
  | pure {α : Type} (a : α) : AccessesOnly (pure a : SlotM α)
  | reg {α : Type} (f : State → α) (h : ∀ s race resets, f (s.scheduled race resets) = f s := by intros; rfl) :
      AccessesOnly (reg f)
  | update (f : State → State)
      (h : ∀ s race resets, f (s.scheduled race resets) = (f s).scheduled race resets := by intros; rfl)
      (hcfg : ∀ s, (f s).cfg = s.cfg := by intros; rfl) : AccessesOnly (update f)
  | raise {α : Type} (st : Status) : AccessesOnly (raise st : SlotM α)
  | restartNow : AccessesOnly restartNow
  | coldResetPoint : AccessesOnly coldResetPoint
  | hostPoint : AccessesOnly hostPoint
  | readNow (a : Nat) : AccessesOnly (readNow a)
  | writeNow (a : Nat) (v : Byte) : AccessesOnly (writeNow a v)
  | readCabNow : AccessesOnly readCabNow
  | bind {α β : Type} {m : SlotM α} {f : α → SlotM β} (hm : AccessesOnly m) (hf : ∀ a, AccessesOnly (f a)) :
      AccessesOnly (m >>= f)

namespace AccessesOnly

variable {α β : Type}

theorem ite {c : Prop} [Decidable c] {m m' : SlotM α} (h : AccessesOnly m) (h' : AccessesOnly m') :
    AccessesOnly (if c then m else m') := by
  split <;> assumption

/-- What follows the read of the configuration. -/
theorem cfg {f : Cfg → SlotM β} (h : ∀ c, AccessesOnly (f c)) : AccessesOnly (Machine.reg (·.cfg) >>= f) :=
  .bind (.reg _) h

theorem memRead (a : Nat) : AccessesOnly (memRead a) :=
  .bind .coldResetPoint fun _ => .bind .hostPoint fun _ => .readNow a

theorem memWrite (a : Nat) (v : Byte) : AccessesOnly (memWrite a v) :=
  .bind .coldResetPoint fun _ => .bind .hostPoint fun _ => .writeNow a v

theorem portWrite (p : Port) (l : Bool) : AccessesOnly (portWrite p l) :=
  .bind .coldResetPoint fun _ => .update _ (by intros; cases p <;> rfl) (by simp)

/-! #### The slots -/

theorem irqOp : AccessesOnly irqOp :=
  have pulse : AccessesOnly pulse := .bind (portWrite _ _) fun _ => .bind (portWrite _ _) fun _ => portWrite _ _
  .cfg fun _ => .bind (memRead _) fun _ => .ite pulse (.pure ())

theorem inputRelayOp : AccessesOnly inputRelayOp :=
  have relay (b : Fin 4) : AccessesOnly (relayBank b) :=
    .cfg fun _ => .bind (memRead _) fun _ => .bind (.update _) fun _ => memWrite _ _
  .cfg fun _ => .bind (.bind .coldResetPoint fun _ => .readCabNow) fun _ => .bind (.update _) fun _ =>
    .bind (memWrite _ _) fun _ => .bind (relay 0) fun _ => .bind (relay 1) fun _ => .bind (relay 2) fun _ => relay 3

theorem award (n : Byte) : AccessesOnly (award n) :=
  .cfg fun _ => .bind (memRead _) fun _ => .bind (memWrite _ _) fun _ => memWrite _ _

theorem edge (g : Signal) (now : Bool) : AccessesOnly (edge g now) :=
  .bind (.reg _) fun _ => .bind (.update _) fun _ => .pure _

theorem coinLine (l : Fin 2) : AccessesOnly (coinLine l) :=
  have accumulates (p : Price) : AccessesOnly (accumulate l p) :=
    .bind (.update _) fun _ => .bind (.reg _) fun _ => .ite (.bind (.update _) fun _ => award _) (.pure ())
  have fell : AccessesOnly (coinFell l) := .bind (.reg _) fun _ => .ite (accumulates _) (award _)
  .bind (.reg _) fun _ => .bind (edge _ _) fun _ => .ite fell (.pure ())

theorem creditOp : AccessesOnly creditOp :=
  have fell : AccessesOnly serviceFell := .cfg fun _ => .bind (memRead _) fun _ => .ite (portWrite _ _) (award 1)
  have service : AccessesOnly serviceLine :=
    .bind (.reg _) fun _ => .bind (edge _ _) fun _ => .ite fell (.pure ())
  have limit : AccessesOnly threshold := .cfg fun _ => .bind (memRead _) fun _ => .ite (portWrite _ _) (portWrite _ _)
  .bind (coinLine 0) fun _ => .bind (coinLine 1) fun _ => .bind service fun _ => limit

theorem lockOp : AccessesOnly lockOp :=
  .cfg fun _ => .bind (memRead _) fun _ => .ite (portWrite _ _) (.ite (portWrite _ _) (.pure ()))

theorem complete (c : Fin 3) (r : Byte) : AccessesOnly (complete c r) :=
  .cfg fun _ => .bind (memWrite _ _) fun _ => .bind (.update _) fun _ => memWrite _ _

theorem operand (c : Fin 3) : AccessesOnly (operand c) := by
  refine .cfg fun cfg => ?_
  cases cfg.ctrlOperand with
  | cache => exact .reg _
  | output => exact memRead _

theorem incCommand (c : Fin 3) : AccessesOnly (incCommand c) :=
  .cfg fun _ => .bind (operand c) fun _ => complete c _

theorem creditCommand (k : Fin 2) (op : CreditOp) : AccessesOnly (creditCommand k op) := by
  cases op with
  | derive => exact .cfg fun _ => .bind (.reg _) fun _ => complete _ _
  | inc => exact incCommand _
  | dec => exact .bind (operand _) fun _ => complete _ _
  | setMax => exact .cfg fun _ => complete _ _

theorem levelCommand (op : LevelOp) : AccessesOnly (levelCommand op) := by
  cases op with
  | inc => exact incCommand 2
  | set00 | set31 | set62 | set63 | set64 | set65 => exact .cfg fun _ => complete 2 _

theorem diagnostic (c : Fin 3) : AccessesOnly (diagnostic c) :=
  have check : AccessesOnly (consistencyCheck c) :=
    .cfg fun _ => .bind (memRead _) fun _ => .bind (.reg _) fun _ => .ite (.raise _) (.pure ())
  .cfg fun _ => .bind (memRead _) fun _ => .ite check (.pure ())

theorem creditController (k : Fin 2) : AccessesOnly (creditController k) := by
  refine .cfg fun cfg => .bind (memRead _) fun cmd => .ite (diagnostic _) ?_
  cases cfg.creditMap[k].op cmd with
  | some op => exact creditCommand k op
  | none => exact .raise _

theorem levelController : AccessesOnly levelController := by
  refine .cfg fun cfg => .bind (memRead _) fun cmd => .ite (diagnostic _) ?_
  cases cfg.levelMap.op cmd with
  | some op => exact levelCommand op
  | none => exact .raise _

theorem countYOverlap (d : Byte) : AccessesOnly (countYOverlap d) := by
  refine .update _ (fun s race resets => ?_) fun s => ?_
  · show (if Overlaps s.cfg d then _ else _) = _
    split <;> rfl
  · split <;> rfl

theorem liveBeastie (p : Fin 2) (i : Fin 7) : AccessesOnly (liveBeastie p i) :=
  have vertical : AccessesOnly (verticalResult p i) :=
    .cfg fun _ => .bind (memRead _) fun _ => .bind (.reg _) fun _ => .bind (memWrite _ _) fun _ =>
      .bind (memWrite _ _) fun _ => countYOverlap _
  have horizontal : AccessesOnly (horizontalResult p i) :=
    .cfg fun _ => .bind (memRead _) fun _ => .bind (.reg _) fun _ => .bind (memWrite _ _) fun _ =>
      .bind (memWrite _ _) fun _ => .pure _
  have kill : AccessesOnly (killRequest p) :=
    .cfg fun _ => .bind (memRead _) fun _ => .ite
      (.bind (memWrite _ _) fun _ => .bind (.reg _) fun _ => .bind (memWrite _ _) fun _ => .pure _)
      (.pure _)
  .bind vertical fun _ => .bind horizontal fun _ => .bind (.reg _) fun _ => .ite kill (.pure _)

theorem sweep (p : Fin 2) (l : List (Fin 7)) : AccessesOnly (sweep p l) := by
  induction l with
  | nil => exact .pure ()
  | cons i rest ih =>
    have visit : AccessesOnly (visitBeastie p i) :=
      .cfg fun _ => .bind (.update _) fun _ => .bind (memRead _) fun _ => .ite (liveBeastie p i) (.pure _)
    exact .bind visit fun _ => .ite (.pure ()) ih

theorem beastieRelay (p : Fin 2) : AccessesOnly (beastieRelay p) :=
  have live : AccessesOnly (livePlayer p) :=
    .cfg fun _ => .bind (memRead _) fun _ => .bind (.update _) fun _ => .bind (memRead _) fun _ =>
      .bind (.update _) fun _ => .bind (.update _) fun _ => sweep p _
  .cfg fun _ => .bind (memRead _) fun _ => .ite live (.pure ())

theorem creeper (k : Fin 4) : AccessesOnly (creeper k) :=
  have emit (n i : Byte) : AccessesOnly (emitCreeper k n i) :=
    .cfg fun _ => .bind (memWrite _ _) fun _ => .update _
  have boundary : AccessesOnly (creeperBoundary k) :=
    .cfg fun _ => .bind (memRead _) fun n => .bind (.update _) fun _ => .ite (.raise _) (emit n 0)
  have refuse (n : Byte) : AccessesOnly (refuseLatched k n) := .bind .coldResetPoint fun _ => .raise _
  .cfg fun _ => .bind (.reg _) fun n => .bind (.reg _) fun i => .ite (refuse n) (.ite boundary (emit n i))

theorem clockOp : AccessesOnly clockOp :=
  have count : AccessesOnly clockCount :=
    .cfg fun _ => .bind (memRead _) fun _ => .bind (memRead _) fun _ => .ite
      (.bind (memWrite _ _) fun _ => memWrite _ _)
      (.bind (memWrite _ _) fun _ => memWrite _ _)
  .cfg fun _ => .bind (memRead _) fun _ => .ite (.pure ()) count

theorem mischiefOp : AccessesOnly mischiefOp :=
  have armed : AccessesOnly mischiefArmed := .cfg fun _ => .bind (.reg _) fun _ => .ite (memWrite _ _) (.pure ())
  .cfg fun _ => .bind (memRead _) fun _ => .ite armed (.pure ())

theorem extendOp : AccessesOnly extendOp := .cfg fun _ => .bind (memRead _) fun _ => memWrite _ _

theorem translator (x : Fin 3) : AccessesOnly (translator x) :=
  have copy (n : Byte) : AccessesOnly (copyByte x n) :=
    .cfg fun _ => .bind (memRead _) fun _ => .bind (memRead _) fun _ => .bind (memWrite _ _) fun _ => memWrite _ _
  have fires : AccessesOnly (fire x) := .cfg fun _ => .bind (memRead _) fun n => .ite (.raise _) (copy n)
  .cfg fun _ => .bind (memRead _) fun _ => .ite fires (.pure ())

theorem resetWatcherOp : AccessesOnly resetWatcherOp :=
  .cfg fun _ => .bind (memRead _) fun _ => .ite .restartNow (.pure ())

theorem delayOp : AccessesOnly delayOp :=
  .cfg fun _ => .bind (memRead _) fun _ => .ite (.pure ()) (.pure ())

theorem slotOps (n : Fin 21) : AccessesOnly slotOps[n] := by
  fin_cases n
  · exact irqOp
  · exact inputRelayOp
  · exact creditOp
  · exact lockOp
  · exact creditController 0
  · exact creditController 1
  · exact levelController
  · exact beastieRelay 0
  · exact beastieRelay 1
  · exact creeper 0
  · exact creeper 1
  · exact creeper 2
  · exact creeper 3
  · exact clockOp
  · exact mischiefOp
  · exact extendOp
  · exact translator 0
  · exact translator 1
  · exact translator 2
  · exact resetWatcherOp
  · exact delayOp

end AccessesOnly

/-! ### Tick atomicity (rule R51) -/

/-- `s` with another schedule of HOST writes inside ticks. -/
def State.withRace (s : State) (race : List (List HostWrite)) : State := { s with hostRace := race }

/-- The end of a piece of a slot, its state changed by `f`. -/
def mapEnd {α : Type} (f : State → State) : EStateM.Result Stop State α → EStateM.Result Stop State α
  | .ok a s => .ok a (f s)
  | .error e s => .error e (f s)

/-- With `HOST_INTERLEAVE` false, `m` does the same under every schedule of HOST writes, and leaves the schedule and the
configuration alone. -/
def RaceBlind {α : Type} (m : SlotM α) : Prop :=
  ∀ s race, s.cfg.hostInterleave = false →
    m.run (s.withRace race) = mapEnd (·.withRace race) (m.run s) ∧ (endState (m.run s)).cfg = s.cfg

section
variable {α β : Type}

theorem raceBlind_bind {m : SlotM α} {f : α → SlotM β} (hm : RaceBlind m) (hf : ∀ a, RaceBlind (f a)) :
    RaceBlind (m >>= f) := by
  intro s race hs
  obtain ⟨hrun, hcfg⟩ := hm s race hs
  rw [run_bind, run_bind, hrun]
  cases e : m.run s with
  | ok a t =>
    rw [e] at hcfg
    obtain ⟨hrun', hcfg'⟩ := hf a t race ((congrArg Cfg.hostInterleave hcfg).trans hs)
    exact ⟨hrun', hcfg'.trans hcfg⟩
  | error x t =>
    rw [e] at hcfg
    exact ⟨rfl, hcfg⟩

theorem raceBlind_coldResetPoint : RaceBlind coldResetPoint := by
  intro s race _
  show coldResetPoint (s.withRace race) = mapEnd _ (coldResetPoint s) ∧ (endState (coldResetPoint s)).cfg = _
  have hr : (s.withRace race).coldResets = s.coldResets := rfl
  simp only [coldResetPoint, hr]
  split <;> exact ⟨rfl, rfl⟩

theorem raceBlind_hostPoint : RaceBlind hostPoint := by
  intro s race hs
  have hs' : (s.withRace race).cfg.hostInterleave = false := hs
  rw [run_hostPoint_quiet s (.inl hs), run_hostPoint_quiet _ (.inl hs')]
  exact ⟨rfl, rfl⟩

theorem sampleBank_withRace (s : State) (b : Fin 4) (race : List (List HostWrite)) :
    (s.withRace race).sampleBank b = ((s.sampleBank b).1, (s.sampleBank b).2.withRace race) := by
  have hb : (s.withRace race).heldBank = s.heldBank := rfl
  unfold State.sampleBank
  rw [hb]
  split <;> rfl

theorem sampleCab_withRace (s : State) (race : List (List HostWrite)) :
    (s.withRace race).sampleCab = (s.sampleCab.1, s.sampleCab.2.withRace race) := by
  have hb : (s.withRace race).heldCab = s.heldCab := rfl
  unfold State.sampleCab
  rw [hb]
  split <;> rfl

/-- A bus read is the same under every schedule. -/
theorem busRead_withRace (s : State) (a : Nat) (race : List (List HostWrite)) :
    (s.withRace race).busRead a = (s.busRead a).map fun r => (r.1, r.2.withRace race) := by
  unfold State.busRead
  split
  · rw [sampleBank_withRace]; rfl
  · split <;> rfl

theorem busWrite_withRace (s : State) (a : Nat) (v : Byte) (race : List (List HostWrite)) :
    (s.withRace race).busWrite a v = (s.busWrite a v).map (·.withRace race) := by
  unfold State.busWrite
  split <;> rfl

theorem raceBlind_readNow (a : Nat) : RaceBlind (readNow a) := by
  intro s race _
  rw [run_readNow, run_readNow, busRead_withRace]
  cases e : s.busRead a with
  | none => exact ⟨rfl, rfl⟩
  | some r =>
    obtain ⟨v, t⟩ := r
    obtain ⟨d, rfl⟩ := busRead_draws e
    exact ⟨rfl, rfl⟩

theorem raceBlind_writeNow (a : Nat) (v : Byte) : RaceBlind (writeNow a v) := by
  intro s race _
  rw [run_writeNow, run_writeNow, busWrite_withRace]
  by_cases ha : InShared a
  · rw [busWrite_shared s ha]
    exact ⟨rfl, rfl⟩
  · rw [busWrite_outside s ha]
    exact ⟨rfl, rfl⟩

theorem raceBlind_readCabNow : RaceBlind readCabNow := by
  intro s race _
  rw [run_readCabNow, run_readCabNow, sampleCab_withRace]
  exact ⟨rfl, State.sampleCab_cfg s⟩

/-- Whatever is put together from accesses is blind to the schedule, since the HOST's access point is. -/
theorem AccessesOnly.raceBlind {m : SlotM α} (h : AccessesOnly m) : RaceBlind m := by
  induction h with
  | pure a => exact fun _ _ _ => ⟨rfl, rfl⟩
  | reg f hf =>
    exact fun s race _ => ⟨congrArg (EStateM.Result.ok · (s.withRace race)) (hf s race s.coldResets), rfl⟩
  | update f hf hcfg =>
    intro s race _
    have hown : f s = (f s).scheduled s.hostRace s.coldResets := hf s s.hostRace s.coldResets
    have hc : (f s).coldResets = s.coldResets := by rw [hown]; rfl
    have he : f (s.withRace race) = (f s).withRace race :=
      calc f (s.withRace race) = (f s).scheduled race s.coldResets := hf s race s.coldResets
        _ = (f s).scheduled race (f s).coldResets := by rw [hc]
    exact ⟨congrArg (EStateM.Result.ok ()) he, hcfg s⟩
  | raise st => exact fun _ _ _ => ⟨rfl, rfl⟩
  | restartNow => exact fun _ _ _ => ⟨rfl, rfl⟩
  | coldResetPoint => exact raceBlind_coldResetPoint
  | hostPoint => exact raceBlind_hostPoint
  | readNow a => exact raceBlind_readNow a
  | writeNow a v => exact raceBlind_writeNow a v
  | readCabNow => exact raceBlind_readCabNow
  | bind _ _ hm hf => exact raceBlind_bind hm hf

end

theorem runSlot_withRace {op : SlotM Unit} (h : RaceBlind op) (n : Fin 21) (s : State) (race : List (List HostWrite))
    (hs : s.cfg.hostInterleave = false) :
    runSlot n op (s.withRace race) = mapNext (·.withRace race) (runSlot n op s) := by
  have hrun := (h { s with pc := .slot n } race hs).1
  unfold runSlot
  cases e : op.run { s with pc := .slot n } with
  | ok a t =>
    rw [e] at hrun
    change op.run { s.withRace race with pc := .slot n } = .ok a (t.withRace race) at hrun
    rw [hrun]
    rfl
  | error x t =>
    rw [e] at hrun
    change op.run { s.withRace race with pc := .slot n } = .error x (t.withRace race) at hrun
    rw [hrun]
    rfl

/-- A host-script line is the same under every schedule, under any configuration. -/
theorem exec_scriptLine_withRace {i : Instr} (hi : ScriptLine i) (s : State) (race : List (List HostWrite)) :
    exec i (s.withRace race) = mapNext (·.withRace race) (exec i s) := by
  cases hi with
  | hw a v =>
    show execHw a v _ = mapNext _ (execHw a v s)
    unfold execHw
    rw [busWrite_withRace]
    cases s.busWrite a.toNat v <;> rfl
  | hr a v =>
    show execHr a v _ = mapNext _ (execHr a v s)
    unfold execHr
    rw [busRead_withRace]
    cases s.busRead a.toNat <;> rfl
  | inp b v | cab v | reset => rfl
  | tick =>
    show Host.Outcome.next (s.withRace race).trigger = .next (s.trigger.withRace race)
    unfold State.trigger
    have hs : (s.withRace race).status = s.status := rfl
    have hp : (s.withRace race).pc = s.pc := rfl
    rw [hs, hp]
    split <;> rfl

/-- Between ticks, and in a terminal status, a step never looks at the schedule. -/
theorem step_script_withRace {s : State} (hi : s.status = .running → s.pc = .idle) (hf : s.fetch = s.fetchScript)
    (race : List (List HostWrite)) : step (s.withRace race) = mapNext (·.withRace race) (step s) := by
  have hf' : (s.withRace race).fetch = (s.withRace race).fetchScript := by
    rcases fetch_cases (s.withRace race) with ⟨n, hr, hp⟩ | ⟨-, hf'⟩
    · exact absurd ((hi hr).symm.trans hp) nofun
    · exact hf'
  have hscript : (s.withRace race).script = s.script := rfl
  rw [step, step, hf, hf', State.fetchScript, State.fetchScript, hscript]
  cases s.script with
  | nil => exact exec_scriptLine_withRace .tick s race
  | cons b bytes =>
    cases hd : decodeScript (b :: bytes) with
    | ok r => simp only [hd]; exact exec_scriptLine_withRace (scriptLine_of_decode hd) { s with script := r.2 } race
    | error e => simp only [hd]; rfl

/-- Settles O57: a slot by its accesses, every other step by its line of the script. -/
theorem tickAtomicity : Obligations.TickAtomicity := by
  intro s race hs
  show step (s.withRace race) = mapNext (·.withRace race) (step s)
  rcases fetch_cases s with ⟨n, hr, hp⟩ | ⟨hi, hf⟩
  · rw [step_slot hr hp, step_slot (s := s.withRace race) hr hp]
    exact runSlot_withRace (AccessesOnly.slotOps n).raceBlind n s race hs
  · exact step_script_withRace hi hf race

end Sys2Proof.Machine

namespace Sys2Proof.Machine

/-! ### One HOST write inside a slot (rule R52) -/

/-- The schedule of one HOST write, of `v` to the cell `a`, before access number `k` from now. -/
def writeAt (a : Nat) (v : Byte) (k : Nat) : List (List HostWrite) :=
  List.replicate k [] ++ [[⟨BitVec.ofNat 10 (a - 0xC00), v⟩]]

theorem hostWrite_addr {a : Nat} (h : InShared a) (v : Byte) : HostWrite.addr ⟨BitVec.ofNat 10 (a - 0xC00), v⟩ = a := by
  obtain ⟨hlo, hhi⟩ := h
  rw [HostWrite.addr, BitVec.toNat_ofNat, Nat.mod_eq_of_lt (by omega)]
  omega

/-- HOST writes may fall into the tick, and no cold reset is due. -/
structure State.Interleaved (s : State) : Prop where
  host : s.cfg.hostInterleave = true
  cold : s.coldResets = []

/-- Memory `m` and schedule `r` while the HOST writes `v` to the cell `a` at one of the next `left` accesses, or has done
so: apart from `a`, the cells read as `f`. -/
structure RaceView (a : Nat) (v : Byte) (left : Nat) (f : Nat → Byte) (m : Memory) (r : List (List HostWrite)) : Prop where
  others : ∀ b, b ≠ a → m.get b = f b
  write : (r = [] ∧ m.get a = v) ∨ ∃ k, k < left ∧ r = writeAt a v k

/-- `base` with memory `m` and with `r` for the schedule of HOST writes. -/
def State.during (base : State) (m : Memory) (r : List (List HostWrite)) : State :=
  { base with shared := m, hostRace := r }

/-- The states of such a race in which all else is as in `base`. -/
inductive Racing (a : Nat) (v : Byte) (left : Nat) (base : State) (f : Nat → Byte) : State → Prop
  | intro (m : Memory) (r : List (List HostWrite)) (hb : base.Interleaved) (h : RaceView a v left f m r) :
      Racing a v left base f (base.during m r)

/-- From a state with `P` the piece `m` completes, as `Q` says. -/
abbrev Completes {α : Type} (P : State → Prop) (m : SlotM α) (Q : α → State → Prop) : Prop :=
  Triple (fun _ => False) P m Q

section
variable {α β : Type} {a : Nat} {v : Byte} {left : Nat} {base : State} {f : Nat → Byte}

theorem Racing.mono {left' : Nat} (hl : left ≤ left') {s : State} (h : Racing a v left base f s) :
    Racing a v left' base f s := by
  obtain ⟨m, r, hb, ho, hw⟩ := h
  exact .intro m r hb ⟨ho, hw.imp_right fun ⟨k, hk, e⟩ => ⟨k, hk.trans_le hl, e⟩⟩

/-- At the end of the race the write has been made. -/
theorem Racing.settled {s : State} (h : Racing a v 0 base f s) :
    ∃ m, s = base.during m [] ∧ m.get a = v ∧ ∀ b, b ≠ a → m.get b = f b := by
  obtain ⟨m, r, -, ho, ⟨rfl, hv⟩ | ⟨k, hk, -⟩⟩ := h
  · exact ⟨m, rfl, hv, ho⟩
  · exact absurd hk (Nat.not_lt_zero k)

theorem run_hostPoint_next {s : State} {ws : List HostWrite} {r : List (List HostWrite)}
    (hi : s.cfg.hostInterleave = true) (hr : s.hostRace = ws :: r) :
    hostPoint.run s = .ok () { s with shared := s.shared.hostWrites ws, hostRace := r } := by
  show hostPoint s = _
  unfold hostPoint
  rw [if_pos hi, hr]

/-- An access uses up one place of the race. -/
theorem completes_hostPoint (ha : InShared a) :
    Completes (Racing a v left base f) hostPoint fun _ => Racing a v (left - 1) base f := by
  rintro _ ⟨m, r, hb, ho, ⟨rfl, hv⟩ | ⟨k, hk, rfl⟩⟩
  · rw [run_hostPoint_quiet (base.during m []) (.inr rfl)]
    exact .intro m [] hb ⟨ho, .inl ⟨rfl, hv⟩⟩
  · cases k with
    | zero =>
      rw [run_hostPoint_next (s := base.during m (writeAt a v 0)) hb.host rfl]
      refine .intro _ [] hb ⟨fun b hne => ?_, .inl ⟨rfl, ?_⟩⟩
      · simp [Memory.hostWrites, hostWrite_addr ha, hne, State.during, ho b hne]
      · simp [Memory.hostWrites, hostWrite_addr ha]
    | succ k =>
      rw [run_hostPoint_next (s := base.during m (writeAt a v (k + 1))) hb.host rfl]
      exact .intro m (writeAt a v k) hb ⟨ho, .inr ⟨k, by omega, rfl⟩⟩

theorem completes_coldResetPoint :
    Completes (Racing a v left base f) coldResetPoint fun _ => Racing a v left base f := by
  rintro _ ⟨m, r, hb, h⟩
  rw [run_coldResetPoint_quiet (base.during m r) hb.cold]
  exact .intro m r hb h

theorem completes_memRead (ha : InShared a) {b : Nat} (hb : InShared b) :
    Completes (Racing a v left base f) (memRead b) fun x s => Racing a v (left - 1) base f s ∧ x = s.shared.get b := by
  refine triple_bind completes_coldResetPoint fun _ => triple_bind (completes_hostPoint ha) fun _ s h => ?_
  rw [run_readNow, busRead_shared s hb]
  exact ⟨h, rfl⟩

/-- A read of a cell that the HOST leaves alone. -/
theorem completes_read (ha : InShared a) {b : Nat} (hb : InShared b) (hne : b ≠ a) {g : Byte → SlotM β}
    {T : β → State → Prop} (h : Completes (Racing a v (left - 1) base f) (g (f b)) T) :
    Completes (Racing a v left base f) (memRead b >>= g) T := by
  refine triple_bind (completes_memRead ha hb) fun x => ?_
  rintro s ⟨hs, rfl⟩
  have hx : s.shared.get b = f b := by obtain ⟨m, r, -, ho, -⟩ := hs; exact ho b hne
  rw [hx]
  exact h s hs

/-- A read of the HOST's cell in the last place of the race, or later. -/
theorem completes_read_raced (ha : InShared a) (hl : left ≤ 1) {g : Byte → SlotM β} {T : β → State → Prop}
    (h : Completes (Racing a v 0 base f) (g v) T) : Completes (Racing a v left base f) (memRead a >>= g) T := by
  refine triple_bind (completes_memRead ha ha) fun x => ?_
  rintro s ⟨hs, rfl⟩
  have hs0 : Racing a v 0 base f s := hs.mono (by omega)
  have hx : s.shared.get a = v := by obtain ⟨m, rfl, hv, -⟩ := hs0.settled; exact hv
  rw [hx]
  exact h s hs0

/-- A write to a cell that the HOST leaves alone. -/
theorem completes_write (ha : InShared a) {b : Nat} (hb : InShared b) (hne : b ≠ a) (x : Byte) :
    Completes (Racing a v left base f) (memWrite b x) fun _ => Racing a v (left - 1) base (Function.update f b x) := by
  refine triple_bind completes_coldResetPoint fun _ => triple_bind (completes_hostPoint ha) fun _ => ?_
  rintro _ ⟨m, r, hs, ho, hw⟩
  rw [run_writeNow, busWrite_shared _ hb]
  refine .intro (m.put b x) r hs ⟨fun b' hb' => ?_, ?_⟩
  · rw [Memory.get_put, Function.update_apply, ho b' hb']
  · rw [Memory.get_put, if_neg hne.symm]
    exact hw

/-- A write to the HOST's cell in the last place of the race, or later, covers the HOST's byte. -/
theorem completes_write_raced (ha : InShared a) (hl : left ≤ 1) (x : Byte) :
    Completes (Racing a v left base f) (memWrite a x) fun _ => Racing a x 0 base f := by
  refine triple_bind completes_coldResetPoint fun _ => triple_bind (completes_hostPoint ha) fun _ s hs => ?_
  have hb : base.Interleaved := by obtain ⟨_, _, hb, -⟩ := hs; exact hb
  obtain ⟨m, rfl, -, ho⟩ := (hs.mono (left' := 0) (by omega)).settled
  rw [run_writeNow, busWrite_shared _ ha]
  refine .intro (m.put a x) [] hb ⟨fun b hne => ?_, .inl ⟨rfl, ?_⟩⟩
  · rw [Memory.get_put, if_neg hne, ho b hne]
  · rw [Memory.get_put, if_pos rfl]

/-- A register write; the default proofs are for a record update of a register. -/
theorem completes_update (g : State → State)
    (hg : ∀ m r, g (base.during m r) = (g base).during m r := by intros; rfl)
    (hi : base.Interleaved → (g base).Interleaved := by exact fun h => ⟨h.host, h.cold⟩) :
    Completes (Racing a v left base f) (update g) fun _ => Racing a v left (g base) f := by
  rintro _ ⟨m, r, hb, h⟩
  rw [run_update, hg]
  exact .intro m r (hi hb) h

/-- A register read; the default proof is for every field but the memory and the schedule. -/
theorem completes_reg {g : State → α} {k : α → SlotM β} {T : β → State → Prop}
    (h : Completes (Racing a v left base f) (k (g base)) T)
    (hg : ∀ m r, g (base.during m r) = g base := by intros; rfl) :
    Completes (Racing a v left base f) (reg g >>= k) T := by
  rintro _ ⟨m, r, hb, hr⟩
  rw [run_bind, run_reg, hg]
  exact h _ (.intro m r hb hr)

/-- The configuration, read at the slot's start. -/
theorem completes_first_cfg {s : State} {g : Cfg → SlotM β} {T : β → State → Prop}
    (h : Completes (· = s) (g s.cfg) T) : Completes (· = s) (reg (·.cfg) >>= g) T :=
  triple_cfg (by rintro _ rfl; rfl) h

/-- The slot's first access, a read before the race's first place. -/
theorem completes_first_read {s : State} {place b : Nat} (hs : s.Interleaved) (hp : 1 ≤ place)
    (hr : s.hostRace = writeAt a v place) (hb : InShared b) {g : Byte → SlotM β} {T : β → State → Prop}
    (h : Completes (Racing a v place s s.shared.get) (g (s.shared.get b)) T) :
    Completes (· = s) (memRead b >>= g) T := by
  obtain ⟨k, rfl⟩ : ∃ k, place = k + 1 := ⟨place - 1, by omega⟩
  have hread : (memRead b).run s = .ok (s.shared.get b) { s with hostRace := writeAt a v k } := by
    have hr' : s.hostRace = [] :: writeAt a v k := hr
    simp only [memRead, run_bind, run_coldResetPoint_quiet s hs.cold, run_hostPoint_next hs.host hr', run_readNow,
      busRead_shared _ hb]
    rfl
  rintro _ rfl
  rw [run_bind, hread]
  exact h _ (.intro _ (writeAt a v k) hs ⟨fun _ _ => rfl, .inr ⟨k, k.lt_succ_self, rfl⟩⟩)

/-- A slot whose operation completes. -/
theorem runSlot_of_completes {n : Fin 21} {op : SlotM Unit} {s : State} {Q : State → Prop}
    (h : Completes (· = { s with pc := .slot n }) op fun _ => Q) :
    ∃ t, Q t ∧ runSlot n op s = .next { t with pc := nextPc n } := by
  obtain ⟨t, e⟩ := runSlot_next n op s
  rcases triple_runSlot h rfl e with ⟨u, hu, rfl⟩ | hE
  · exact ⟨u, hu, e⟩
  · exact hE.elim

end

end Sys2Proof.Machine

namespace Sys2Proof

/-! ### The command maps (rules R64 to R66) -/

/-- Distinct command bytes are told apart (rule R65). -/
theorem CreditMap.op_byteOf {m : CreditMap} (h : m.bytes.Nodup) (op : CreditOp) : m.op (m.byteOf op) = some op := by
  simp only [CreditMap.bytes, List.nodup_cons, List.mem_cons, List.not_mem_nil, or_false, not_or] at h
  cases op <;> grind [CreditMap.op, CreditMap.byteOf]

/-- Distinct command bytes are told apart (rule R66). -/
theorem LevelMap.op_byteOf {m : LevelMap} (h : m.bytes.Nodup) (op : LevelOp) : m.op (m.byteOf op) = some op := by
  simp only [LevelMap.bytes, List.nodup_cons, List.mem_cons, List.not_mem_nil, or_false, not_or] at h
  cases op <;> grind [LevelMap.op, LevelMap.byteOf]

theorem CreditMap.byteOf_mem (m : CreditMap) (op : CreditOp) : m.byteOf op ∈ m.bytes := by
  cases op <;> simp [CreditMap.byteOf, CreditMap.bytes]

theorem LevelMap.byteOf_mem (m : LevelMap) (op : LevelOp) : m.byteOf op ∈ m.bytes := by
  cases op <;> simp [LevelMap.byteOf, LevelMap.bytes]

theorem ne_zero_of_oneHot {v : Byte} (h : v ∈ oneHotBytes) : v ≠ 0 := by
  rintro rfl
  exact absurd h (by decide)

/-- No command byte of a credit variant is the idle value 0 (rule R64). -/
theorem Cfg.Valid.creditByte_ne_zero {c : Cfg} (h : c.Valid) (k : Fin 2) (op : CreditOp) : c.creditMap[k].byteOf op ≠ 0 :=
  ne_zero_of_oneHot ((h.maps.1 k).2 _ (CreditMap.byteOf_mem _ op))

/-- No command byte of the level variant is the idle value 0 (rule R64). -/
theorem Cfg.Valid.levelByte_ne_zero {c : Cfg} (h : c.Valid) (op : LevelOp) : c.levelMap.byteOf op ≠ 0 :=
  ne_zero_of_oneHot (h.maps.2.2 _ (LevelMap.byteOf_mem _ op))

end Sys2Proof

namespace Sys2Proof.Machine

/-! ### The controllers' results in the statements' words (rules R122, R123) -/

/-- The derive table's index grows bit by bit from the left (rule R122, log entry 12). -/
theorem foldl_dipIndex (bank : Vector Byte 4) (bits : List (Fin 4 × Fin 8)) (n : Nat) :
    bits.foldl (fun n p => 2 * n + (bank[p.1].getLsbD p.2.val).toNat) n = n * 2 ^ bits.length + deriveIndex bank bits := by
  induction bits generalizing n with
  | nil => simp [deriveIndex]
  | cons p rest ih =>
    rw [List.foldl_cons, ih, deriveIndex, List.length_cons, Nat.pow_succ]
    cases bank[p.1].getLsbD p.2.val <;> simp <;> ring

theorem dipIndex_eq_deriveIndex (bank : Vector Byte 4) (bits : List (Fin 4 × Fin 8)) :
    dipIndex bank bits = deriveIndex bank bits := by
  rw [dipIndex, foldl_dipIndex, Nat.zero_mul, Nat.zero_add]

theorem deriveIndex_lt (bank : Vector Byte 4) (bits : List (Fin 4 × Fin 8)) :
    deriveIndex bank bits < 2 ^ bits.length := by
  induction bits with
  | nil => simp [deriveIndex]
  | cons p rest ih =>
    rw [deriveIndex, List.length_cons, Nat.pow_succ]
    split <;> omega

/-- Under a valid configuration `DERIVE` finds its byte in the table (rule R122). -/
theorem derives_deriveByte {s : State} (h : s.cfg.Valid) (k : Fin 2) : s.Derives k (deriveByte s.cfg k s.bank) := by
  obtain ⟨-, -, -, -, -, hlen⟩ := h.tables
  have hlt : deriveIndex s.bank s.cfg.ctrlDerive[k].bits < s.cfg.ctrlDerive[k].table.length := by
    rw [hlen k]
    exact deriveIndex_lt _ _
  rw [State.Derives, deriveByte, romByte, dipIndex_eq_deriveIndex, List.getElem?_eq_getElem hlt]
  rfl

/-- The saturating increment in the statements' words (rule R123). -/
theorem incClamp_eq (s : State) (c : Fin 3) (n : Byte) :
    incClamp (s.operandOf c) n s.cfg.ctrlMax[c] = s.incremented c n := by
  have hmax := s.cfg.ctrlMax[c].isLt
  apply BitVec.eq_of_toNat_eq
  unfold incClamp State.incremented
  split
  · rw [BitVec.toNat_ofNat, BitVec.toNat_add, Nat.min_eq_left ‹_›]
  · rw [BitVec.toNat_ofNat, Nat.min_eq_right (by omega), Nat.mod_eq_of_lt hmax]

theorem incAmount_credit (cfg : Cfg) (k : Fin 2) : incAmount cfg k.castSucc = 1 :=
  if_neg (Fin.castSucc_ne_last k)

/-! ### A command lost in a race (rule R131) -/

section
variable {v : Byte} {s : State} {c : Fin 3}

/-- The states in which the HOST writes `v` to controller `c`'s command cell at one of the next `left` accesses, or has done
so, and the command has written nothing yet. -/
abbrev Overtaken (s : State) (c : Fin 3) (v : Byte) (left : Nat) : State → Prop :=
  Racing s.cfg.aCtrlCmd[c] v left s s.shared.get

/-- The states in which controller `c` has completed with result `r` and the race is over. -/
abbrev Served (s : State) (c : Fin 3) (r : Byte) : State → Prop :=
  Racing s.cfg.aCtrlCmd[c] 0 0 { s with ctrlCache := s.ctrlCache.set c r }
    (Function.update s.shared.get s.cfg.aCtrlOut[c] r)

theorem inShared_ctrlCmd (hv : s.cfg.Valid) (c : Fin 3) : InShared s.cfg.aCtrlCmd[c] := hv.inShared_addr (.ctrlCmd c)

theorem inShared_ctrlOut (hv : s.cfg.Valid) (c : Fin 3) : InShared s.cfg.aCtrlOut[c] := hv.inShared_addr (.ctrlOut c)

theorem ctrlOut_ne_ctrlCmd (hv : s.cfg.Valid) (c : Fin 3) : s.cfg.aCtrlOut[c] ≠ s.cfg.aCtrlCmd[c] := fun e =>
  absurd (hv.addr_inj (x := .ctrlOut c) (y := .ctrlCmd c) e) nofun

theorem completes_complete (hv : s.cfg.Valid) (r : Byte) :
    Completes (Overtaken s c v 2) (complete c r) fun _ => Served s c r :=
  completes_reg <|
    triple_bind (completes_write (inShared_ctrlCmd hv c) (inShared_ctrlOut hv c) (ctrlOut_ne_ctrlCmd hv c) r) fun _ =>
      triple_bind (completes_update _) fun _ => completes_write_raced (inShared_ctrlCmd hv c) le_rfl 0

/-- Reading the operand leaves two places before the zeroing. -/
theorem completes_operand (hv : s.cfg.Valid) {g : Byte → SlotM Unit} {T : Unit → State → Prop}
    (h : Completes (Overtaken s c v 2) (g (s.operandOf c)) T) :
    Completes (Overtaken s c v (s.cfg.accessesBeforeZeroing true)) (operand c >>= g) T := by
  unfold operand
  rw [bind_assoc]
  refine completes_reg ?_
  unfold State.operandOf at h
  unfold Cfg.accessesBeforeZeroing
  cases ho : s.cfg.ctrlOperand with
  | cache =>
    rw [ho] at h
    exact completes_reg h
  | output =>
    rw [ho] at h
    exact completes_read (inShared_ctrlCmd hv c) (inShared_ctrlOut hv c) (ctrlOut_ne_ctrlCmd hv c) h

theorem completes_incCommand (hv : s.cfg.Valid) :
    Completes (Overtaken s c v (s.cfg.accessesBeforeZeroing true)) (incCommand c) fun _ =>
      Served s c (s.incremented c (incAmount s.cfg c)) := by
  refine completes_reg <| completes_operand hv ?_
  rw [← incClamp_eq]
  exact completes_complete hv _

theorem completes_creditCommand (hv : s.cfg.Valid) (k : Fin 2) (op : CreditOp) :
    ∃ r, s.CreditResult k r op ∧
      Completes (Overtaken s k.castSucc v (s.cfg.accessesBeforeZeroing op.readsOperand)) (creditCommand k op) fun _ =>
        Served s k.castSucc r := by
  cases op with
  | derive => exact ⟨_, derives_deriveByte hv k, completes_reg <| completes_reg <| completes_complete hv _⟩
  | inc => exact ⟨_, rfl, incAmount_credit s.cfg k ▸ completes_incCommand hv⟩
  | dec => exact ⟨_, rfl, completes_operand hv <| completes_complete hv _⟩
  | setMax => exact ⟨_, rfl, completes_reg <| completes_complete hv _⟩

theorem completes_levelCommand (hv : s.cfg.Valid) (op : LevelOp) :
    Completes (Overtaken s 2 v (s.cfg.accessesBeforeZeroing op.readsOperand)) (levelCommand op) fun _ =>
      Served s 2 (s.levelResult op) := by
  cases op with
  | inc => exact completes_incCommand hv
  | set00 | set31 | set62 | set63 | set64 | set65 => exact completes_reg <| completes_complete hv _

/-- A controller's slot in a race: the command is read before the HOST overwrites it. -/
theorem completes_readCommand {place left : Nat} (hv : s.cfg.Valid) (hp : 1 ≤ place) (hl : place ≤ left)
    (hr : s.CommandRaced c place v) {g : Byte → SlotM Unit} {T : Unit → State → Prop}
    (h : Completes (Overtaken s c v left) (g (s.shared.get s.cfg.aCtrlCmd[c])) T) :
    Completes (· = s) (memRead s.cfg.aCtrlCmd[c] >>= g) T := by
  obtain ⟨hi, hc, hrace⟩ := hr
  refine completes_first_read ⟨hi, hc⟩ hp hrace (inShared_ctrlCmd hv c) ?_
  exact triple_conseq h (fun _ h => h.mono hl) fun _ _ h => h

theorem completes_creditController {place : Nat} (hv : s.cfg.Valid) (hp : 1 ≤ place) {k : Fin 2} {op : CreditOp}
    (hl : place ≤ s.cfg.accessesBeforeZeroing op.readsOperand) (hr : s.CommandRaced k.castSucc place v)
    (hcmd : s.shared.get s.cfg.aCtrlCmd[k.castSucc] = s.cfg.creditMap[k].byteOf op) :
    ∃ r, s.CreditResult k r op ∧ Completes (· = s) (creditController k) fun _ => Served s k.castSucc r := by
  obtain ⟨r, hres, h⟩ := completes_creditCommand (v := v) hv k op
  refine ⟨r, hres, completes_first_cfg <| completes_readCommand hv hp hl hr ?_⟩
  rw [hcmd, if_neg (hv.creditByte_ne_zero k op), CreditMap.op_byteOf (hv.maps.1 k).1]
  exact h

theorem completes_levelController {place : Nat} (hv : s.cfg.Valid) (hp : 1 ≤ place) {op : LevelOp}
    (hl : place ≤ s.cfg.accessesBeforeZeroing op.readsOperand) (hr : s.CommandRaced 2 place v)
    (hcmd : s.shared.get s.cfg.aCtrlCmd[(2 : Fin 3)] = s.cfg.levelMap.byteOf op) :
    Completes (· = s) levelController fun _ => Served s 2 (s.levelResult op) := by
  refine completes_first_cfg <| completes_readCommand hv hp hl hr ?_
  rw [hcmd, if_neg (hv.levelByte_ne_zero op), LevelMap.op_byteOf hv.maps.2.1]
  exact completes_levelCommand hv op

/-- A slot that ends with the command served has completed as the statement says, the schedule used up. -/
theorem completedWith_of_served {n : Fin 21} {op : SlotM Unit} {r : Byte} (hv : s.cfg.Valid)
    (hn : nextPc n = .slot (n + 1)) (h : Completes (· = { s with pc := .slot n }) op fun _ => Served { s with pc := .slot n } c r) :
    CompletedWith { s with hostRace := [] } c n r (runSlot n op s) := by
  obtain ⟨t, ht, e⟩ := runSlot_of_completes h
  obtain ⟨m, rfl, hzero, hothers⟩ := ht.settled
  refine ⟨m, by rw [e, hn]; rfl, ?_, hzero, fun b hout hcmd => ?_⟩
  · rw [hothers _ (ctrlOut_ne_ctrlCmd hv c), Function.update_self]
  · rw [hothers b hcmd, Function.update_of_ne hout]

end

/-- The slots of the credit-variant controllers (rule R60). -/
theorem exec_creditSlot {k : Fin 2} {i : Instr} {n : Fin 21} (h : (k.castSucc, i, n) ∈ controllerSlots) (s : State) :
    exec i s = runSlot n (creditController k) s ∧ nextPc n = .slot (n + 1) := by
  simp only [controllerSlots, List.mem_cons, Prod.mk.injEq, List.not_mem_nil, or_false] at h
  rcases h with ⟨hk, rfl, rfl⟩ | ⟨hk, rfl, rfl⟩ | ⟨hk, -, -⟩
  · obtain rfl : k = 0 := Fin.castSucc_injective 2 hk
    exact ⟨rfl, rfl⟩
  · obtain rfl : k = 1 := Fin.castSucc_injective 2 hk
    exact ⟨rfl, rfl⟩
  · exact absurd hk (Fin.castSucc_ne_last k)

/-- Settles O58: the command is read before the race's first place, and the slot's own zeroing comes after the HOST's write. -/
theorem commandLostInRace : Obligations.CommandLostInRace := by
  intro s place v hv hp
  refine ⟨fun k i n op hslot hr hl hcmd => ?_, fun op hr hl hcmd => ?_⟩
  · obtain ⟨r, hres, h⟩ := completes_creditController (s := { s with pc := .slot n }) hv hp hl hr hcmd
    obtain ⟨hexec, hnext⟩ := exec_creditSlot hslot s
    exact ⟨r, hres, hexec ▸ completedWith_of_served hv hnext h⟩
  · exact completedWith_of_served hv rfl (completes_levelController (s := { s with pc := .slot 6 }) hv hp hl hr hcmd)

end Sys2Proof.Machine

namespace Sys2Proof

/-! ### Cells stored one after the other -/

/-- The bytes `f` after a store of `val x` to each cell `x` of the list, in order. -/
def storedAt (c : Cfg) (val : PlainCell → Byte) (xs : List PlainCell) (f : Nat → Byte) : Nat → Byte :=
  xs.foldl (fun f x => Function.update f (c.addr x) (val x)) f

theorem storedAt_append (c : Cfg) (val : PlainCell → Byte) (xs ys : List PlainCell) (f : Nat → Byte) :
    storedAt c val (xs ++ ys) f = storedAt c val ys (storedAt c val xs f) :=
  List.foldl_append

theorem storedAt_of_not_mem {c : Cfg} {val : PlainCell → Byte} {xs : List PlainCell} {f : Nat → Byte} {b : Nat}
    (h : ∀ x ∈ xs, b ≠ c.addr x) : storedAt c val xs f b = f b := by
  induction xs generalizing f with
  | nil => rfl
  | cons x rest ih =>
    have hrest := ih (f := Function.update f (c.addr x) (val x)) fun y hy => h y (List.mem_cons_of_mem x hy)
    exact hrest.trans (Function.update_of_ne (h x List.mem_cons_self) _ _)

/-- A stored cell holds its byte, however often it is stored. -/
theorem storedAt_of_mem {c : Cfg} (hc : c.Valid) {val : PlainCell → Byte} {xs : List PlainCell} {f : Nat → Byte}
    {x : PlainCell} (h : x ∈ xs) : storedAt c val xs f (c.addr x) = val x := by
  induction xs generalizing f with
  | nil => cases h
  | cons y rest ih =>
    by_cases hx : x ∈ rest
    · exact ih hx
    · obtain rfl : x = y := (List.mem_cons.mp h).resolve_right hx
      have hrest : ∀ z ∈ rest, c.addr x ≠ c.addr z := fun z hz e => hx (hc.addr_inj e ▸ hz)
      exact (storedAt_of_not_mem hrest).trans (Function.update_self _ _ _)

/-- The output cells of player `p`'s beastie `i`, in the order the relay writes them (rules R156, R157). -/
def PlainCell.outsOf (p : Fin 2) (i : Fin 7) : List PlainCell := [.oVCode p i, .oVDist p i, .oHCode p i, .oHDist p i]

theorem PlainCell.mem_beastOuts_of_outsOf {p : Fin 2} {i : Fin 7} {x : PlainCell} (h : x ∈ PlainCell.outsOf p i) :
    x ∈ PlainCell.beastOuts p := by
  simp only [PlainCell.outsOf, List.mem_cons, List.not_mem_nil, or_false] at h
  rw [PlainCell.mem_beastOuts]
  exact ⟨i, by tauto⟩

theorem PlainCell.ne_pLive_of_outsOf {p : Fin 2} {i : Fin 7} {x : PlainCell} (h : x ∈ PlainCell.outsOf p i) :
    x ≠ .pLive p := by
  rintro rfl
  simp [PlainCell.outsOf] at h

/-- No two beasties share an output cell. -/
theorem PlainCell.outsOf_inj {p : Fin 2} {i j : Fin 7} {x : PlainCell} (hi : x ∈ PlainCell.outsOf p i)
    (hj : x ∈ PlainCell.outsOf p j) : i = j := by
  simp only [PlainCell.outsOf, List.mem_cons, List.not_mem_nil, or_false] at hi hj
  rcases hi with rfl | rfl | rfl | rfl <;> simpa using hj

end Sys2Proof

namespace Sys2Proof.Machine

/-! ### Player and beastie coordinates in the statements' words (rule R154) -/

theorem compareCoord_code (cfg : Cfg) (pv bv : Byte) : (compareCoord cfg pv bv).1 = direction cfg pv bv := by
  unfold compareCoord direction
  simp only [BitVec.lt_def, ← BitVec.toNat_inj]
  split_ifs <;> rfl

theorem compareCoord_distance (cfg : Cfg) (pv bv : Byte) : (compareCoord cfg pv bv).2.toNat = distance pv bv := by
  unfold compareCoord distance
  split_ifs with heq hlt
  · subst heq; simp
  · show (bv - pv).toNat = _; bv_omega
  · show (pv - bv).toNat = _; bv_omega

theorem overlaps_compareCoord (cfg : Cfg) (pv bv : Byte) :
    Overlaps cfg (compareCoord cfg pv bv).2 ↔ distance pv bv < cfg.overlapLimit.toNat := by
  rw [← compareCoord_distance cfg pv bv]
  exact BitVec.lt_def

/-- The byte that a sweep from `s` writes to an output cell (rules R154 to R157). -/
def State.freshByte (s : State) : PlainCell → Byte
  | .oVCode p i => (compareCoord s.cfg (s.playerY p) (s.beastieY i)).1
  | .oVDist p i => (compareCoord s.cfg (s.playerY p) (s.beastieY i)).2
  | .oHCode p i => (compareCoord s.cfg (s.playerX p) (s.beastieX i)).1
  | .oHDist p i => (compareCoord s.cfg (s.playerX p) (s.beastieX i)).2
  | _ => 0

open Classical in
/-- The output cells of beastie `i` that a sweep from `s` writes: a beastie that is not live is skipped (rule R153). -/
noncomputable def State.liveOuts (s : State) (p : Fin 2) (i : Fin 7) : List PlainCell :=
  if s.BeastieLive i then PlainCell.outsOf p i else []

/-- What the cells read as once the sweep from `s` is done with the beasties `done`. -/
noncomputable def State.sweptBytes (s : State) (p : Fin 2) (done : List (Fin 7)) : Nat → Byte :=
  storedAt s.cfg s.freshByte (done.flatMap (s.liveOuts p)) s.shared.get

theorem State.mem_liveOuts {s : State} {p : Fin 2} {i : Fin 7} {x : PlainCell} :
    x ∈ s.liveOuts p i ↔ s.BeastieLive i ∧ x ∈ PlainCell.outsOf p i := by
  unfold State.liveOuts
  split <;> simp [*]

theorem State.sweptBytes_snoc (s : State) (p : Fin 2) (done : List (Fin 7)) (i : Fin 7) :
    s.sweptBytes p (done ++ [i]) = storedAt s.cfg s.freshByte (s.liveOuts p i) (s.sweptBytes p done) := by
  rw [State.sweptBytes, List.flatMap_append, storedAt_append, List.flatMap_singleton]
  rfl

/-- A sweep writes output cells only. -/
theorem State.sweptBytes_of_not_out {s : State} {p : Fin 2} {done : List (Fin 7)} {b : Nat}
    (h : ∀ x ∈ PlainCell.beastOuts p, b ≠ s.cfg.addr x) : s.sweptBytes p done b = s.shared.get b := by
  refine storedAt_of_not_mem fun x hx => h x ?_
  obtain ⟨i, -, hi⟩ := List.mem_flatMap.mp hx
  exact PlainCell.mem_beastOuts_of_outsOf (State.mem_liveOuts.mp hi).2

/-- A cell that is no output of the relay keeps its byte through the sweep. -/
theorem State.sweptBytes_addr {s : State} (hv : s.cfg.Valid) {p : Fin 2} {done : List (Fin 7)} {x : PlainCell}
    (h : x ∉ PlainCell.beastOuts p) : s.sweptBytes p done (s.cfg.addr x) = s.shared.get (s.cfg.addr x) :=
  State.sweptBytes_of_not_out fun _ hy e => h (hv.addr_inj e ▸ hy)

theorem State.sweptBytes_live {s : State} (hv : s.cfg.Valid) {p : Fin 2} {done : List (Fin 7)} {i : Fin 7}
    (hi : i ∈ done) (hl : s.BeastieLive i) {x : PlainCell} (hx : x ∈ PlainCell.outsOf p i) :
    s.sweptBytes p done (s.cfg.addr x) = s.freshByte x :=
  storedAt_of_mem hv (List.mem_flatMap.mpr ⟨i, hi, State.mem_liveOuts.mpr ⟨hl, hx⟩⟩)

theorem State.sweptBytes_skipped {s : State} (hv : s.cfg.Valid) {p : Fin 2} {done : List (Fin 7)} {i : Fin 7}
    (hl : ¬ s.BeastieLive i) {x : PlainCell} (hx : x ∈ PlainCell.outsOf p i) :
    s.sweptBytes p done (s.cfg.addr x) = s.shared.get (s.cfg.addr x) := by
  refine storedAt_of_not_mem fun y hy e => hl ?_
  obtain rfl : x = y := hv.addr_inj e
  obtain ⟨j, -, hj⟩ := List.mem_flatMap.mp hy
  obtain ⟨hlj, hxj⟩ := State.mem_liveOuts.mp hj
  exact PlainCell.outsOf_inj hxj hx ▸ hlj

/-! ### A re-check that fails in a race (rule R159) -/

/-- The registers inside player `p`'s sweep from `s`: the cached position, `y` overlaps counted, loop index `j`. -/
def State.sweeping (s : State) (p : Fin 2) (y : Byte) (j : BitVec 3) : State :=
  { s with pX := s.playerX p, pY := s.playerY p, yOverlap := y, beastIdx := j }

/-- The states of the sweep while the HOST writes `v` to the player's liveness at one of the next `left` accesses, or has
done so. -/
abbrev Sweeping (s : State) (p : Fin 2) (v : Byte) (left : Nat) (y : Byte) (j : BitVec 3) (f : Nat → Byte) :
    State → Prop :=
  Racing s.cfg.aPLive[p] v left (s.sweeping p y j) f

open Classical in
/-- The overlap count after beastie `i`, live or not (rule R156). -/
noncomputable def State.countedAt (s : State) (p : Fin 2) (y : Byte) (i : Fin 7) : Byte :=
  if s.OverlapsY p i then y + 1 else y

/-- The overlap count after the beasties of a list. -/
noncomputable def State.countedOver (s : State) (p : Fin 2) : Byte → List (Fin 7) → Byte := List.foldl (s.countedAt p)

open Classical in
theorem State.countedOver_eq (s : State) (p : Fin 2) (y : Byte) (l : List (Fin 7)) :
    s.countedOver p y l = y + BitVec.ofNat 8 (l.filter fun i => s.OverlapsY p i).length := by
  induction l generalizing y with
  | nil => simp [State.countedOver]
  | cons i rest ih =>
    show s.countedOver p (s.countedAt p y i) rest = _
    rw [ih, State.countedAt, List.filter_cons]
    by_cases h : s.OverlapsY p i
    · simp only [h, if_true, decide_true, List.length_cons]
      bv_omega
    · simp [h]

theorem State.countedOver_all (s : State) (p : Fin 2) :
    s.countedOver p 0 [0, 1, 2, 3, 4, 5, 6] = BitVec.ofNat 8 (s.overlapsOfAll p) := by
  rw [State.countedOver_eq]
  exact BitVec.zero_add _

section
variable {s : State} {p : Fin 2} {i : Fin 7} {v y : Byte} {left : Nat} {j : BitVec 3} {f : Nat → Byte}

theorem inShared_pLive (hv : s.cfg.Valid) (p : Fin 2) : InShared s.cfg.aPLive[p] := hv.inShared_addr (.pLive p)

/-- A read of a named cell other than the liveness. -/
theorem completes_readCell (hv : s.cfg.Valid) {x : PlainCell} (hx : x ≠ .pLive p) {b : Byte} (hf : f (s.cfg.addr x) = b)
    {α : Type} {base : State} {g : Byte → SlotM α} {T : α → State → Prop}
    (h : Completes (Racing s.cfg.aPLive[p] v (left - 1) base f) (g b) T) :
    Completes (Racing s.cfg.aPLive[p] v left base f) (memRead (s.cfg.addr x) >>= g) T :=
  completes_read (inShared_pLive hv p) (hv.inShared_addr x) (fun e => hx (hv.addr_inj (y := .pLive p) e)) (hf ▸ h)

/-- A write of the fresh byte to an output cell. -/
theorem completes_writeFresh (hv : s.cfg.Valid) {x : PlainCell} (hx : x ≠ .pLive p) {base : State} :
    Completes (Racing s.cfg.aPLive[p] v left base f) (memWrite (s.cfg.addr x) (s.freshByte x)) fun _ =>
      Racing s.cfg.aPLive[p] v (left - 1) base (storedAt s.cfg s.freshByte [x] f) :=
  completes_write (inShared_pLive hv p) (hv.inShared_addr x) (fun e => hx (hv.addr_inj (y := .pLive p) e)) _

theorem completes_countYOverlap (hl : s.BeastieLive i) :
    Completes (Sweeping s p v left y j f) (countYOverlap (s.freshByte (.oVDist p i))) fun _ =>
      Sweeping s p v left (s.countedAt p y i) j f := by
  have hiff : Overlaps s.cfg (s.freshByte (.oVDist p i)) ↔ s.OverlapsY p i :=
    (overlaps_compareCoord _ _ _).trans ⟨fun h => ⟨hl, h⟩, And.right⟩
  rintro _ ⟨m, r, hb, h⟩
  have hrun : (countYOverlap (s.freshByte (.oVDist p i))).run ((s.sweeping p y j).during m r) =
      .ok () ((s.sweeping p (s.countedAt p y i) j).during m r) := by
    by_cases ho : s.OverlapsY p i
    · rw [State.countedAt, if_pos ho]
      exact congrArg (EStateM.Result.ok ()) (if_pos (hiff.mpr ho))
    · rw [State.countedAt, if_neg ho]
      exact congrArg (EStateM.Result.ok ()) (if_neg (mt hiff.mp ho))
  rw [hrun]
  exact .intro m r ⟨hb.host, hb.cold⟩ h

theorem completes_verticalResult (hv : s.cfg.Valid) (hl : s.BeastieLive i) (hf : f (s.cfg.addr (.bY i)) = s.beastieY i) :
    Completes (Sweeping s p v left y j f) (verticalResult p i) fun _ =>
      Sweeping s p v (left - 3) (s.countedAt p y i) j (storedAt s.cfg s.freshByte [.oVCode p i, .oVDist p i] f) :=
  completes_reg <| completes_readCell hv (x := .bY i) nofun hf <| completes_reg <|
    triple_bind (completes_writeFresh hv (x := .oVCode p i) nofun) fun _ =>
      triple_bind (completes_writeFresh hv (x := .oVDist p i) nofun) fun _ => completes_countYOverlap hl

theorem completes_horizontalResult (hv : s.cfg.Valid) (hf : f (s.cfg.addr (.bX i)) = s.beastieX i) :
    Completes (Sweeping s p v left y j f) (horizontalResult p i) fun d t =>
      d = s.freshByte (.oHDist p i) ∧
      Sweeping s p v (left - 3) y j (storedAt s.cfg s.freshByte [.oHCode p i, .oHDist p i] f) t :=
  completes_reg <| completes_readCell hv (x := .bX i) nofun hf <| completes_reg <|
    triple_bind (completes_writeFresh hv (x := .oHCode p i) nofun) fun _ =>
      triple_bind (completes_writeFresh hv (x := .oHDist p i) nofun) fun _ => triple_pure _ fun _ h => ⟨rfl, h⟩

/-- The liveness is read again in the last place of the race, or later: no kill (rule R159). -/
theorem completes_killRequest (hv : s.cfg.Valid) (hdead : ¬ Alive s.cfg v) (hl : left ≤ 1) :
    Completes (Sweeping s p v left y j f) (killRequest p) fun done t => done = false ∧ Sweeping s p v 0 y j f t := by
  refine completes_reg <| completes_read_raced (inShared_pLive hv p) hl ?_
  exact triple_ite (fun hlive => absurd hlive hdead) fun _ => triple_pure _ fun _ h => ⟨rfl, h⟩

/-- A live beastie in the race: either the HOST's write has been made, or the beastie collides and the write comes before the
re-check. -/
theorem completes_liveBeastie (hv : s.cfg.Valid) (hdead : ¬ Alive s.cfg v) (hlive : s.BeastieLive i)
    (hY : f (s.cfg.addr (.bY i)) = s.beastieY i) (hX : f (s.cfg.addr (.bX i)) = s.beastieX i) (hl : left ≤ 7)
    (hhit : left = 0 ∨ s.OverlapsX p i ∧ s.countedAt p y i ≠ 0) :
    Completes (Sweeping s p v left y j f) (liveBeastie p i) fun done t =>
      done = false ∧ Sweeping s p v 0 (s.countedAt p y i) j (storedAt s.cfg s.freshByte (PlainCell.outsOf p i) f) t := by
  have hX' : storedAt s.cfg s.freshByte [.oVCode p i, .oVDist p i] f (s.cfg.addr (.bX i)) = s.beastieX i := by
    rw [storedAt_of_not_mem (by simp [hv]), hX]
  refine triple_bind (completes_verticalResult hv hlive hY) fun _ => ?_
  refine triple_bind (completes_horizontalResult hv hX') fun d => ?_
  rintro t ⟨rfl, ht⟩
  revert t
  refine completes_reg (triple_ite (fun _ => completes_killRequest hv hdead (by omega)) fun hmiss => ?_)
  refine triple_pure _ fun t ht => ⟨rfl, ht.mono ?_⟩
  rcases hhit with rfl | ⟨⟨-, ho⟩, hne⟩
  · rfl
  · exact absurd (decide_eq_true ⟨(overlaps_compareCoord _ _ _).mpr ho, hne⟩) hmiss

/-- One turn of the sweep in the race (rule R153). -/
theorem completes_visitBeastie (hv : s.cfg.Valid) (hdead : ¬ Alive s.cfg v) (done : List (Fin 7)) (hl : left ≤ 8)
    (hhit : left = 0 ∨ s.OverlapsX p i ∧ s.countedAt p y i ≠ 0) :
    Completes (Sweeping s p v left y j (s.sweptBytes p done)) (visitBeastie p i) fun stop t =>
      stop = false ∧
      Sweeping s p v 0 (s.countedAt p y i) (BitVec.ofNat 3 i.val) (s.sweptBytes p (done ++ [i])) t := by
  have hinput {x : PlainCell} (hx : x ∉ PlainCell.beastOuts p) := State.sweptBytes_addr (done := done) hv hx
  have hstage := hinput (x := .bStage i) (by simp [PlainCell.mem_beastOuts])
  have hY := hinput (x := .bY i) (by simp [PlainCell.mem_beastOuts])
  have hX := hinput (x := .bX i) (by simp [PlainCell.mem_beastOuts])
  rw [State.sweptBytes_snoc]
  refine completes_reg <| triple_bind (completes_update _) fun _ => ?_
  refine completes_readCell hv (x := .bStage i) nofun hstage ?_
  refine triple_ite (fun hlive => ?_) fun hskip => ?_
  · have houts : s.liveOuts p i = PlainCell.outsOf p i := if_pos hlive
    rw [houts]
    exact completes_liveBeastie hv hdead hlive hY hX (by omega) (hhit.imp_left fun h => by omega)
  · have houts : s.liveOuts p i = [] := if_neg hskip
    have hcount : s.countedAt p y i = y := if_neg fun h => hskip h.1
    have hleft : left = 0 := hhit.resolve_right fun h => hskip h.1.1
    rw [houts, hcount]
    exact triple_pure _ fun t ht => ⟨rfl, ht.mono (by omega)⟩

/-- Once the HOST's write has been made, the sweep goes on to the end of the list. -/
theorem completes_sweep (hv : s.cfg.Valid) (hdead : ¬ Alive s.cfg v) (l done : List (Fin 7)) :
    Completes (Sweeping s p v 0 y j (s.sweptBytes p done)) (sweep p l) fun _ =>
      Sweeping s p v 0 (s.countedOver p y l) (l.foldl (fun _ i => BitVec.ofNat 3 i.val) j) (s.sweptBytes p (done ++ l)) := by
  induction l generalizing done y j with
  | nil => rw [List.append_nil]; exact triple_pure _ fun _ h => h
  | cons i rest ih =>
    refine triple_bind (completes_visitBeastie hv hdead done (Nat.zero_le 8) (.inl rfl)) fun stop => ?_
    rintro t ⟨rfl, ht⟩
    have hrest := ih (y := s.countedAt p y i) (j := BitVec.ofNat 3 i.val) (done ++ [i])
    rw [List.append_assoc] at hrest
    exact hrest t ht

/-- The whole relay of a live player whose first beastie collides: the HOST's write comes before the first re-check. -/
theorem completes_beastieRelay {place : Nat} (hv : s.cfg.Valid) (hs : s.Interleaved) (hdead : ¬ Alive s.cfg v)
    (hlive : s.PlayerLive p) (hY : s.OverlapsY p 0) (hX : s.OverlapsX p 0) (hp : 1 ≤ place) (hp' : place ≤ 10)
    (hr : s.hostRace = writeAt s.cfg.aPLive[p] v place) :
    Completes (· = s) (beastieRelay p) fun _ =>
      Sweeping s p v 0 (BitVec.ofNat 8 (s.overlapsOfAll p)) 6 (s.sweptBytes p [0, 1, 2, 3, 4, 5, 6]) := by
  rw [← State.countedOver_all]
  have hone : s.countedAt p 0 0 = 1 := if_pos hY
  refine completes_first_cfg <| completes_first_read hs hp hr (inShared_pLive hv p) ?_
  refine triple_ite (fun _ => ?_) fun h => absurd hlive h
  refine completes_reg <| completes_readCell hv (x := .pX p) nofun rfl ?_
  refine triple_bind (completes_update _) fun _ => ?_
  refine completes_readCell hv (x := .pY p) nofun rfl ?_
  refine triple_bind (completes_update _) fun _ => triple_bind (completes_update _) fun _ => ?_
  refine triple_bind (completes_visitBeastie (s := s) (i := 0) hv hdead [] (by omega) (.inr ⟨hX, by rw [hone]; decide⟩))
    fun stop => ?_
  rintro t ⟨rfl, ht⟩
  exact completes_sweep hv hdead [1, 2, 3, 4, 5, 6] [0] t ht

/-- The cells after the relay are those of a full sweep without a kill. -/
theorem fullSweepMemory_of_sweptBytes (hv : s.cfg.Valid) {m : Memory}
    (hm : ∀ b, b ≠ s.cfg.aPLive[p] → m.get b = s.sweptBytes p [0, 1, 2, 3, 4, 5, 6] b) : FullSweepMemory s p m := by
  have hall (i : Fin 7) : i ∈ ([0, 1, 2, 3, 4, 5, 6] : List (Fin 7)) := by fin_cases i <;> simp
  have hout {i : Fin 7} {x : PlainCell} (hx : x ∈ PlainCell.outsOf p i) := hm (s.cfg.addr x) fun e =>
    PlainCell.ne_pLive_of_outsOf hx (hv.addr_inj (y := .pLive p) e)
  refine ⟨fun i hl => ?_, fun i hl => ?_, fun b hother hb => ?_⟩
  · have fresh (x : PlainCell) (hx : x ∈ PlainCell.outsOf p i) : m.get (s.cfg.addr x) = s.freshByte x :=
      (hout hx).trans (State.sweptBytes_live hv (hall i) hl hx)
    refine ⟨(fresh (.oVCode p i) ?_).trans (compareCoord_code _ _ _),
      (congrArg BitVec.toNat (fresh (.oVDist p i) ?_)).trans (compareCoord_distance _ _ _),
      (fresh (.oHCode p i) ?_).trans (compareCoord_code _ _ _),
      (congrArg BitVec.toNat (fresh (.oHDist p i) ?_)).trans (compareCoord_distance _ _ _)⟩ <;>
    simp [PlainCell.outsOf]
  · have skipped (x : PlainCell) (hx : x ∈ PlainCell.outsOf p i) :
        m.get (s.cfg.addr x) = s.shared.get (s.cfg.addr x) :=
      (hout hx).trans (State.sweptBytes_skipped hv hl hx)
    refine ⟨skipped (.oVCode p i) ?_, skipped (.oVDist p i) ?_, skipped (.oHCode p i) ?_, skipped (.oHDist p i) ?_⟩ <;>
    simp [PlainCell.outsOf]
  · rw [hm b hb]
    refine State.sweptBytes_of_not_out fun x hx e => hother ?_
    rw [Cfg.beastOutCells_eq, e]
    exact List.mem_map_of_mem hx

end

/-- The slots of the beastie relays (rule R60). -/
theorem exec_beastieSlot {p : Fin 2} {i : Instr} {n : Fin 21} (h : (p, i, n) ∈ beastieSlots) (s : State) :
    exec i s = runSlot n (beastieRelay p) s ∧ nextPc n = .slot (n + 1) := by
  simp only [beastieSlots, List.mem_cons, Prod.mk.injEq, List.not_mem_nil, or_false] at h
  rcases h with ⟨rfl, rfl, rfl⟩ | ⟨rfl, rfl, rfl⟩ <;> exact ⟨rfl, rfl⟩

/-- Settles O60: the HOST's write comes before the first re-check, and after it every re-check fails. -/
theorem recheckInRace : Obligations.RecheckInRace := by
  intro s p i n v place hv hcold hhost hslot hlive hY hX hdead hp hp' hrace
  obtain ⟨hexec, hnext⟩ := exec_beastieSlot hslot s
  have h := completes_beastieRelay (s := { s with pc := .slot n }) hv ⟨hhost, hcold⟩ (not_not.mpr hdead) hlive hY hX hp hp'
    hrace
  obtain ⟨t, ht, e⟩ := runSlot_of_completes h
  obtain ⟨m, rfl, hlast, hothers⟩ := ht.settled
  exact ⟨m, by rw [hexec, e, hnext]; rfl, fullSweepMemory_of_sweptBytes hv hothers, hlast⟩

end Sys2Proof.Machine

/-!
PROOFS. The statements about the encoding. The decoder and the encoder are inverse format by format: the slot numbers, the
command bytes of a cell, the host-script lines. Then what a step finds in the script; then what is left of a slot once it
has read its command cell (`afterRead`), which is both what the byte's own instruction does and where rule R70's values
leave nothing to do.
-/

namespace Sys2Proof

/-! ### Format `SLOT` (rule R60) -/

/-- No bit of a slot number is dropped. -/
theorem encode_of_decodeSlot (cfg : Cfg) {w : BitVec 5} {i : Instr} (h : decodeSlot w = .ok i) : encode cfg i = .slot w := by
  obtain ⟨n⟩ := w
  fin_cases n <;> cases h <;> rfl

/-! ### Format `CMD8` (rules R61 to R67) -/

theorem decode_cmd_eq_ok {cfg : Cfg} {cell : CmdCell} {v : Byte} {i : Instr} :
    decode cfg (.cmd cell v) = .ok i ↔ decodeCmd cfg cell v = some i := by
  rw [decode]
  cases decodeCmd cfg cell v <;> simp

/-- A map selects an operation by that operation's own byte only (rule R65). -/
theorem CreditMap.byteOf_of_op {m : CreditMap} {v : Byte} {op : CreditOp} (h : m.op v = some op) : m.byteOf op = v := by
  unfold CreditMap.op at h
  repeat' split at h
  all_goals cases h
  all_goals exact Eq.symm ‹_›

/-- A map selects an operation by that operation's own byte only (rule R66). -/
theorem LevelMap.byteOf_of_op {m : LevelMap} {v : Byte} {op : LevelOp} (h : m.op v = some op) : m.byteOf op = v := by
  unfold LevelMap.op at h
  repeat' split at h
  all_goals cases h
  all_goals exact Eq.symm ‹_›

theorem encode_instr0 (cfg : Cfg) (op : CreditOp) :
    encode cfg op.instr0 = .cmd (.ctrlCmd 0) (cfg.creditMap[0].byteOf op) := by
  cases op <;> rfl

theorem encode_instr1 (cfg : Cfg) (op : CreditOp) :
    encode cfg op.instr1 = .cmd (.ctrlCmd 1) (cfg.creditMap[1].byteOf op) := by
  cases op <;> rfl

theorem encode_instr2 (cfg : Cfg) (op : LevelOp) :
    encode cfg op.instr2 = .cmd (.ctrlCmd 2) (cfg.levelMap.byteOf op) := by
  cases op <;> rfl

theorem decodeCtrl_zero (cfg : Cfg) (c : Fin 3) : decodeCtrl cfg c 0 = some (.ctrlIdle c) := if_pos rfl

/-- Everything a controller's command byte can be: the idle value, or a byte its map assigns. -/
theorem decodeCtrl_cases {cfg : Cfg} {c : Fin 3} {v : Byte} {i : Instr} (h : decodeCtrl cfg c v = some i) :
    (v = 0 ∧ i = .ctrlIdle c) ∨
    (v ≠ 0 ∧ ((c = 0 ∧ ∃ op, cfg.creditMap[0].op v = some op ∧ op.instr0 = i) ∨
      (c = 1 ∧ ∃ op, cfg.creditMap[1].op v = some op ∧ op.instr1 = i) ∨
      (c = 2 ∧ ∃ op, cfg.levelMap.op v = some op ∧ op.instr2 = i))) := by
  unfold decodeCtrl at h
  split at h
  · exact .inl ⟨‹_›, (Option.some.inj h).symm⟩
  · refine .inr ⟨‹_›, ?_⟩
    match c with
    | 0 => exact .inl ⟨rfl, Option.map_eq_some_iff.mp h⟩
    | 1 => exact .inr (.inl ⟨rfl, Option.map_eq_some_iff.mp h⟩)
    | 2 => exact .inr (.inr ⟨rfl, Option.map_eq_some_iff.mp h⟩)

theorem encode_of_decodeCtrl {cfg : Cfg} {c : Fin 3} {v : Byte} {i : Instr} (h : decodeCtrl cfg c v = some i) :
    encode cfg i = .cmd (.ctrlCmd c) v := by
  rcases decodeCtrl_cases h with
    ⟨rfl, rfl⟩ | ⟨-, ⟨rfl, op, hop, rfl⟩ | ⟨rfl, op, hop, rfl⟩ | ⟨rfl, op, hop, rfl⟩⟩
  · rfl
  · rw [encode_instr0, CreditMap.byteOf_of_op hop]
  · rw [encode_instr1, CreditMap.byteOf_of_op hop]
  · rw [encode_instr2, LevelMap.byteOf_of_op hop]

/-- The match is on the whole byte (rule R61). -/
theorem encode_of_decodeCmd {cfg : Cfg} {cell : CmdCell} {v : Byte} {i : Instr} (h : decodeCmd cfg cell v = some i) :
    encode cfg i = .cmd cell v := by
  cases cell with
  | ctrlCmd c => exact encode_of_decodeCtrl h
  | irqMarker | lockCmd | ctrlGate | mischiefEn | xlStatus | resetCmd | delayMarker =>
    rw [decodeCmd] at h
    repeat' split at h
    all_goals cases h
    all_goals subst v; rfl

/-- Of distinct one-hot bytes a credit-variant map finds each one's operation, and none is the idle value (rules R64, R65). -/
theorem creditMap_finds {cfg : Cfg} (h : cfg.MapsOneHot) (k : Fin 2) (op : CreditOp) :
    cfg.creditMap[k].byteOf op ≠ 0 ∧ cfg.creditMap[k].op (cfg.creditMap[k].byteOf op) = some op := by
  obtain ⟨hdistinct, honehot⟩ := h.1 k
  exact ⟨ne_zero_of_oneHot (honehot _ (CreditMap.byteOf_mem _ op)), CreditMap.op_byteOf hdistinct op⟩

theorem decode_encode_instr0 {cfg : Cfg} (h : cfg.MapsOneHot) (op : CreditOp) :
    decode cfg (encode cfg op.instr0) = .ok op.instr0 := by
  obtain ⟨hne, hop⟩ := creditMap_finds h 0 op
  rw [encode_instr0, decode_cmd_eq_ok]
  exact (if_neg hne).trans (Option.map_eq_some_iff.mpr ⟨op, hop, rfl⟩)

theorem decode_encode_instr1 {cfg : Cfg} (h : cfg.MapsOneHot) (op : CreditOp) :
    decode cfg (encode cfg op.instr1) = .ok op.instr1 := by
  obtain ⟨hne, hop⟩ := creditMap_finds h 1 op
  rw [encode_instr1, decode_cmd_eq_ok]
  exact (if_neg hne).trans (Option.map_eq_some_iff.mpr ⟨op, hop, rfl⟩)

theorem decode_encode_instr2 {cfg : Cfg} (h : cfg.MapsOneHot) (op : LevelOp) :
    decode cfg (encode cfg op.instr2) = .ok op.instr2 := by
  obtain ⟨-, hdistinct, honehot⟩ := h
  have hne : cfg.levelMap.byteOf op ≠ 0 := ne_zero_of_oneHot (honehot _ (LevelMap.byteOf_mem _ op))
  rw [encode_instr2, decode_cmd_eq_ok]
  exact (if_neg hne).trans (Option.map_eq_some_iff.mpr ⟨op, LevelMap.op_byteOf hdistinct op, rfl⟩)

/-- The second of a cell's two values decodes when it differs from the first (rule R63). -/
theorem decode_second {cfg : Cfg} {cell : CmdCell} {a b : Byte} {i j : Instr} (h : a ≠ b)
    (hd : decodeCmd cfg cell b = if b = a then some i else if b = b then some j else none) :
    decode cfg (.cmd cell b) = .ok j := by
  rw [decode_cmd_eq_ok, hd, if_neg h.symm, if_pos rfl]

/-! ### The host script (rule R73) -/

/-- The two bytes of an address make it up again. -/
theorem halfOf_bytes (a : Half) : halfOf (highByte a) (lowByte a) = a := by
  have hjoin : a.extractLsb' 8 8 ++ a.extractLsb' 0 8 = a.extractLsb' 0 16 :=
    BitVec.extractLsb'_append_extractLsb'_eq_extractLsb' rfl
  exact hjoin.trans BitVec.extractLsb'_eq_self

theorem highByte_halfOf (hi lo : Byte) : highByte (halfOf hi lo) = hi := by
  rw [highByte, halfOf, BitVec.extractLsb'_append_eq_left]

theorem lowByte_halfOf (hi lo : Byte) : lowByte (halfOf hi lo) = lo := by
  rw [lowByte, halfOf, BitVec.extractLsb'_append_eq_right]

theorem decodeScript_hw (a : Half) (v : Byte) (rest : List Byte) :
    decodeScript (0x57 :: highByte a :: lowByte a :: v :: rest) = .ok (.hw a v, rest) := by
  show Except.ok (Instr.hw (halfOf (highByte a) (lowByte a)) v, rest) = _
  rw [halfOf_bytes]

theorem decodeScript_hr (a : Half) (v : Byte) (rest : List Byte) :
    decodeScript (0x52 :: highByte a :: lowByte a :: v :: rest) = .ok (.hr a v, rest) := by
  show Except.ok (Instr.hr (halfOf (highByte a) (lowByte a)) v, rest) = _
  rw [halfOf_bytes]

theorem decodeScript_inp (b : Fin 4) (v : Byte) (rest : List Byte) :
    decodeScript (0x49 :: BitVec.ofNat 8 b.val :: v :: rest) = .ok (.inp b v, rest) := by
  fin_cases b <;> rfl

theorem scriptLine_of_encode {cfg : Cfg} {i : Instr} {line : List Byte} (h : encode cfg i = .script line) :
    Machine.ScriptLine i := by
  cases i <;> cases h <;> constructor

/-- Settles O3: the line's equation, for each of the six. -/
theorem scriptLineFirst : Obligations.ScriptLineFirst := by
  intro cfg i line rest h
  cases scriptLine_of_encode h with
  | hw a v => cases h; exact decodeScript_hw a v rest
  | hr a v => cases h; exact decodeScript_hr a v rest
  | inp b v => cases h; exact decodeScript_inp b v rest
  | cab v | tick | reset => cases h; rfl

/-- Everything the script decoder can read: the line of the instruction, and it leaves the bytes after it. -/
theorem line_of_decodeScript (cfg : Cfg) {bytes rest : List Byte} {i : Instr} (h : decodeScript bytes = .ok (i, rest)) :
    ∃ line, encode cfg i = .script line ∧ bytes = line ++ rest := by
  unfold decodeScript at h
  repeat' split at h
  all_goals cases h
  all_goals subst_vars
  all_goals exact ⟨_, rfl, by simp [highByte_halfOf, lowByte_halfOf]⟩

/-- A script line decodes where the script decoder uses it up. -/
theorem decode_script_eq_ok {cfg : Cfg} {bytes : List Byte} {i : Instr} :
    decode cfg (.script bytes) = .ok i ↔ decodeScript bytes = .ok (i, []) := by
  rw [decode]
  cases decodeScript bytes with
  | error e => simp
  | ok r => obtain ⟨j, _ | ⟨b, rest⟩⟩ := r <;> simp

theorem decode_encode_scriptLine {cfg : Cfg} {i : Instr} {line : List Byte} (h : encode cfg i = .script line) :
    decode cfg (encode cfg i) = .ok i := by
  rw [h, decode_script_eq_ok, ← List.append_nil line]
  exact scriptLineFirst cfg i line [] h

/-! ### Every instruction -/

/-- Settles O1, by the format of the instruction: the table of slots, the command bytes that the premises keep apart, the
script lines. -/
theorem decodeOfEncode : Obligations.DecodeOfEncode := by
  intro cfg hmaps hlock hxl i
  cases i with
  | irq | inrel | credit | lock | ctrl0 | ctrl1 | ctrl2 | beast0 | beast1 | creep0 | creep1 | creep2 | creep3 | clock
  | mischief | extend | xlat0 | xlat1 | xlat2 | rstw | delay => rfl
  | irqReady | lockEngage | diagGate c | mischiefEn | xlatArm t | rstWarm | delayMark =>
    exact decode_cmd_eq_ok.mpr (if_pos rfl)
  | ctrlIdle c => exact decode_cmd_eq_ok.mpr (decodeCtrl_zero cfg c)
  | lockDisengage => exact decode_second hlock rfl
  | xlatDone t => exact decode_second hxl rfl
  | ctrl0Derive => exact decode_encode_instr0 hmaps .derive
  | ctrl0Inc => exact decode_encode_instr0 hmaps .inc
  | ctrl0Dec => exact decode_encode_instr0 hmaps .dec
  | ctrl0SetMax => exact decode_encode_instr0 hmaps .setMax
  | ctrl1Derive => exact decode_encode_instr1 hmaps .derive
  | ctrl1Inc => exact decode_encode_instr1 hmaps .inc
  | ctrl1Dec => exact decode_encode_instr1 hmaps .dec
  | ctrl1SetMax => exact decode_encode_instr1 hmaps .setMax
  | ctrl2Set00 => exact decode_encode_instr2 hmaps .set00
  | ctrl2Inc => exact decode_encode_instr2 hmaps .inc
  | ctrl2Set31 => exact decode_encode_instr2 hmaps .set31
  | ctrl2Set62 => exact decode_encode_instr2 hmaps .set62
  | ctrl2Set63 => exact decode_encode_instr2 hmaps .set63
  | ctrl2Set64 => exact decode_encode_instr2 hmaps .set64
  | ctrl2Set65 => exact decode_encode_instr2 hmaps .set65
  | hw a v | hr a v | inp b v | cab v | tick | reset => exact decode_encode_scriptLine rfl

/-- Settles O2, by the format of the encoding. -/
theorem encodeOfDecode : Obligations.EncodeOfDecode := by
  intro cfg e i h
  cases e with
  | slot w => exact encode_of_decodeSlot cfg h
  | cmd cell v => exact encode_of_decodeCmd (decode_cmd_eq_ok.mp h)
  | script bytes =>
    obtain ⟨line, hline, rfl⟩ := line_of_decodeScript cfg (decode_script_eq_ok.mp h)
    rw [hline, List.append_nil]

/-- Settles O4: each of the seven is the word the encoder gives. -/
theorem handWords : Obligations.HandWords := by
  have word (i : Instr) : decode Cfg.ref (encode Cfg.ref i) = .ok i :=
    decodeOfEncode Cfg.ref Cfg.valid_ref.maps (by decide) (by decide) i
  exact ⟨word .clock, word .irqReady, word .lockDisengage, word .ctrl1Dec, word .ctrl2Set62, word (.hw 0xC05 0x47),
    word (.inp 0 0x20)⟩

end Sys2Proof

namespace Sys2Proof.Machine

/-! ### The fetch from the script (rules R73, R204) -/

theorem fetch_script {s : State} (h : s.status ≠ .running ∨ s.pc = .idle) : s.fetch = s.fetchScript := by
  rcases fetch_cases s with ⟨n, hr, hp⟩ | ⟨-, hf⟩
  · rw [hr, hp] at h
    simp at h
  · exact hf

theorem fetchScript_of_decode {s : State} {i : Instr} {rest : List Byte} (h : decodeScript s.script = .ok (i, rest)) :
    s.fetchScript = .run i { s with script := rest } := by
  unfold State.fetchScript
  cases hs : s.script with
  | nil =>
    rw [hs] at h
    cases h
  | cons b bytes =>
    rw [hs] at h
    simp only [h]

/-- Settles O6: the line decodes in front of what the rest of the script holds. -/
theorem stepRunsScriptLine : Obligations.StepRunsScriptLine := by
  intro s line rest i hidle hscript hline
  have hfront : decodeScript (line ++ rest) = .ok (i, rest) :=
    scriptLineFirst s.cfg i line rest (encodeOfDecode s.cfg _ i hline)
  have hfetch : s.fetch = .run i { s with script := rest } :=
    (fetch_script hidle).trans (fetchScript_of_decode (hscript ▸ hfront))
  rw [step, hfetch]

/-! ### What is left of a slot once it has read its command cell (rules R61 to R63) -/

/-- A controller's slot after the command byte `v` (rules R121, R128, R129). -/
def afterCommand (cfg : Cfg) (v : Byte) (c : Fin 3) : SlotM Unit :=
  if v = 0 then diagnostic c
  else match c with
    | 0 => match cfg.creditMap[0].op v with
      | some op => creditCommand 0 op
      | none => raise (.refused (.unmappedCommand 0 v))
    | 1 => match cfg.creditMap[1].op v with
      | some op => creditCommand 1 op
      | none => raise (.refused (.unmappedCommand 1 v))
    | 2 => match cfg.levelMap.op v with
      | some op => levelCommand op
      | none => raise (.refused (.unmappedCommand 2 v))

/-- The slot of a command cell after it has read the byte `v` there; a gate's slot has read the idle command before it. -/
def afterRead (cfg : Cfg) (v : Byte) : CmdCell → SlotM Unit
  | .irqMarker => if v = cfg.vIrqReady then pulse else pure ()
  | .lockCmd => if v = cfg.vLockEngage then engage else if v = cfg.vLockDisengage then disengage else pure ()
  | .ctrlCmd c => afterCommand cfg v c
  | .ctrlGate c => if v = cfg.vDiag then consistencyCheck c else pure ()
  | .mischiefEn => if v = cfg.vMischiefEn then mischiefArmed else pure ()
  | .xlStatus t => if v = cfg.vXlArmed then fire t else pure ()
  | .resetCmd => if v = cfg.vReset then restartNow else pure ()
  | .delayMarker => if v ≠ cfg.vDelayMarker then pad else pure ()

/-- The slot `n` of the dispatch sequence runs its operation (rules R60, R80). -/
theorem exec_of_decodeSlot {n : Fin 21} {j : Instr} (h : decodeSlot (slotWord n) = .ok j) (s : State) :
    exec j s = runSlot n slotOps[n] s := by
  fin_cases n <;> cases h <;> rfl

/-- In a quiet state a slot that begins with the read of a cell of `Shared` is what follows the byte there. -/
theorem runSlot_read {s : State} (hq : s.Quiet) {addr : Cfg → Nat} (ha : InShared (addr s.cfg)) (n : Fin 21)
    (f : Cfg → Byte → SlotM Unit) :
    runSlot n (do let cfg ← reg (·.cfg); let v ← memRead (addr cfg); f cfg v) s =
      runSlot n (f s.cfg (s.shared.get (addr s.cfg))) s := by
  obtain ⟨hcold, hrace⟩ := hq
  have hread := run_memRead_quiet { s with pc := .slot n } (addr s.cfg) hcold hrace ha
  simp only [runSlot, run_bind, run_reg, hread]

theorem runSlot_pure (n : Fin 21) (s : State) : runSlot n (pure ()) s = .next { s with pc := nextPc n } :=
  runSlot_of_ok n (pure ()) s { s with pc := .slot n } rfl

section
variable {s : State} (hq : s.Quiet) (hv : s.cfg.Valid)
include hq hv

theorem runSlot_controller (c : Fin 3) :
    runSlot (cellSlot (.ctrlCmd c)) slotOps[cellSlot (.ctrlCmd c)] s =
      runSlot (cellSlot (.ctrlCmd c)) (afterCommand s.cfg (s.shared.get s.cfg.aCtrlCmd[c]) c) s := by
  match c with
  | 0 => exact runSlot_read hq (addr := (·.aCtrlCmd[0])) (hv.inShared_addr (.ctrlCmd 0)) 4 (afterCommand · · 0)
  | 1 => exact runSlot_read hq (addr := (·.aCtrlCmd[1])) (hv.inShared_addr (.ctrlCmd 1)) 5 (afterCommand · · 1)
  | 2 => exact runSlot_read hq (addr := (·.aCtrlCmd[2])) (hv.inShared_addr (.ctrlCmd 2)) 6 (afterCommand · · 2)

theorem runSlot_translator (t : Fin 3) :
    runSlot (cellSlot (.xlStatus t)) slotOps[cellSlot (.xlStatus t)] s =
      runSlot (cellSlot (.xlStatus t)) (afterRead s.cfg (s.shared.get s.cfg.aXlStatus[t]) (.xlStatus t)) s := by
  have hop : slotOps[cellSlot (.xlStatus t)] = translator t := by fin_cases t <;> rfl
  rw [hop]
  exact runSlot_read hq (addr := (·.aXlStatus[t])) (hv.inShared_addr (.xlStatus t)) _ (afterRead · · (.xlStatus t))

/-- The slot of a command cell reads the byte and goes on with it; a gate's slot reads the idle command first (rule R128). -/
theorem runSlot_cellSlot (cell : CmdCell) (hidle : ∀ c, cell = .ctrlGate c → s.shared.get s.cfg.aCtrlCmd[c] = 0) :
    runSlot (cellSlot cell) slotOps[cellSlot cell] s =
      runSlot (cellSlot cell) (afterRead s.cfg (s.shared.get (cellAddr s.cfg cell)) cell) s := by
  cases cell with
  | irqMarker => exact runSlot_read hq (addr := (·.aIrqMarker)) (hv.inShared_addr .irqMarker) 0 (afterRead · · .irqMarker)
  | lockCmd => exact runSlot_read hq (addr := (·.aLockCmd)) (hv.inShared_addr .lockCmd) 3 (afterRead · · .lockCmd)
  | ctrlCmd c => exact runSlot_controller hq hv c
  | ctrlGate c =>
    have hdiag : afterCommand s.cfg (s.shared.get s.cfg.aCtrlCmd[c]) c = diagnostic c := if_pos (hidle c rfl)
    refine (runSlot_controller hq hv c).trans ?_
    rw [hdiag]
    exact runSlot_read hq (addr := (·.aCtrlGate[c])) (hv.inShared_gate c) _ (afterRead · · (.ctrlGate c))
  | mischiefEn =>
    exact runSlot_read hq (addr := (·.aMischiefEn)) (hv.inShared_addr .mischiefEn) 14 (afterRead · · .mischiefEn)
  | xlStatus t => exact runSlot_translator hq hv t
  | resetCmd => exact runSlot_read hq (addr := (·.aResetCmd)) (hv.inShared_addr .resetCmd) 19 (afterRead · · .resetCmd)
  | delayMarker =>
    exact runSlot_read hq (addr := (·.aDelayMarker)) (hv.inShared_addr .delayMarker) 20 (afterRead · · .delayMarker)

/-- The instruction of a command cell's slot. -/
theorem exec_slotOfCell {cell : CmdCell} {j : Instr} (hj : decodeSlot (slotWord (cellSlot cell)) = .ok j)
    (hidle : ∀ c, cell = .ctrlGate c → s.shared.get s.cfg.aCtrlCmd[c] = 0) :
    exec j s = runSlot (cellSlot cell) (afterRead s.cfg (s.shared.get (cellAddr s.cfg cell)) cell) s :=
  (exec_of_decodeSlot hj s).trans (runSlot_cellSlot hq hv cell hidle)

end

/-! #### The commands' own instructions -/

theorem exec_instr0 (op : CreditOp) (s : State) : exec op.instr0 s = runSlot 4 (creditCommand 0 op) s := by
  cases op <;> rfl

theorem exec_instr1 (op : CreditOp) (s : State) : exec op.instr1 s = runSlot 5 (creditCommand 1 op) s := by
  cases op <;> rfl

theorem exec_instr2 (op : LevelOp) (s : State) : exec op.instr2 s = runSlot 6 (levelCommand op) s := by
  cases op <;> rfl

theorem exec_of_decodeCtrl {cfg : Cfg} {c : Fin 3} {v : Byte} {i : Instr} (h : decodeCtrl cfg c v = some i) (s : State) :
    exec i s = runSlot (ctrlSlot c) (afterCommand cfg v c) s := by
  rcases decodeCtrl_cases h with
    ⟨rfl, rfl⟩ | ⟨hne, ⟨rfl, op, hop, rfl⟩ | ⟨rfl, op, hop, rfl⟩ | ⟨rfl, op, hop, rfl⟩⟩
  · rfl
  · rw [exec_instr0, afterCommand, if_neg hne, hop]
    rfl
  · rw [exec_instr1, afterCommand, if_neg hne, hop]
    rfl
  · rw [exec_instr2, afterCommand, if_neg hne, hop]
    rfl

/-- The instruction a byte decodes to in its cell is what the cell's slot does after that byte (rules R61 to R63). -/
theorem exec_of_decodeCmd {cfg : Cfg} {cell : CmdCell} {v : Byte} {i : Instr} (h : decodeCmd cfg cell v = some i)
    (s : State) : exec i s = runSlot (cellSlot cell) (afterRead cfg v cell) s := by
  cases cell with
  | ctrlCmd c => exact exec_of_decodeCtrl h s
  | irqMarker | ctrlGate _ | mischiefEn | resetCmd =>
    rw [decodeCmd] at h
    obtain ⟨hv, ⟨⟩⟩ := Option.ite_none_right_eq_some.mp h
    rw [afterRead, if_pos hv]
    rfl
  | delayMarker =>
    rw [decodeCmd] at h
    obtain ⟨hv, ⟨⟩⟩ := Option.ite_none_right_eq_some.mp h
    rw [afterRead, if_neg (not_not.mpr hv)]
    rfl
  | lockCmd =>
    rw [decodeCmd] at h
    rw [afterRead]
    split at h
    · cases h
      rw [if_pos ‹_›]
      rfl
    · obtain ⟨hv, ⟨⟩⟩ := Option.ite_none_right_eq_some.mp h
      rw [if_neg ‹_›, if_pos hv]
      rfl
  | xlStatus t =>
    rw [decodeCmd] at h
    rw [afterRead]
    split at h
    · cases h
      rw [if_pos ‹_›]
      rfl
    · obtain ⟨-, ⟨⟩⟩ := Option.ite_none_right_eq_some.mp h
      rw [if_neg ‹_›]
      rfl

/-- Settles O8: both are the slot with what is left of it after the byte. -/
theorem slotRunsCommand : Obligations.SlotRunsCommand := by
  intro s cell j i hq hv hj hi hidle
  calc exec j s
      = runSlot (cellSlot cell) (afterRead s.cfg (s.shared.get (cellAddr s.cfg cell)) cell) s :=
        exec_slotOfCell hq hv hj hidle
    _ = exec i s := (exec_of_decodeCmd (decode_cmd_eq_ok.mp hi) s).symm

/-! ### Values with no operation (rule R70) -/

/-- Where a byte leaves its slot nothing to do, the slot moves `pc` on and nothing else. -/
theorem exec_noOperation {s : State} (hq : s.Quiet) (hv : s.cfg.Valid) {cell : CmdCell} {j : Instr}
    (hj : decodeSlot (slotWord (cellSlot cell)) = .ok j)
    (hidle : ∀ c, cell = .ctrlGate c → s.shared.get s.cfg.aCtrlCmd[c] = 0)
    (hnone : afterRead s.cfg (s.shared.get (cellAddr s.cfg cell)) cell = pure ()) :
    exec j s = .next { s with pc := nextPc (cellSlot cell) } := by
  rw [exec_slotOfCell hq hv hj hidle, hnone, runSlot_pure]

/-- The slots of the translators (rule R60). -/
theorem decode_translatorSlot {t : Fin 3} {i : Instr} {n : Fin 21} (h : (t, i, n) ∈ translatorSlots) :
    decodeSlot (slotWord (cellSlot (.xlStatus t))) = .ok i ∧ nextPc (cellSlot (.xlStatus t)) = .slot (n + 1) := by
  simp only [translatorSlots, List.mem_cons, Prod.mk.injEq, List.not_mem_nil, or_false] at h
  rcases h with ⟨rfl, rfl, rfl⟩ | ⟨rfl, rfl, rfl⟩ | ⟨rfl, rfl, rfl⟩ <;> exact ⟨rfl, rfl⟩

/-- The slots of the controllers, which read the gates too (rules R60, R63). -/
theorem decode_controllerSlot {c : Fin 3} {i : Instr} {n : Fin 21} (h : (c, i, n) ∈ controllerSlots) :
    decodeSlot (slotWord (cellSlot (.ctrlGate c))) = .ok i ∧ nextPc (cellSlot (.ctrlGate c)) = .slot (n + 1) := by
  simp only [controllerSlots, List.mem_cons, Prod.mk.injEq, List.not_mem_nil, or_false] at h
  rcases h with ⟨rfl, rfl, rfl⟩ | ⟨rfl, rfl, rfl⟩ | ⟨rfl, rfl, rfl⟩ <;> exact ⟨rfl, rfl⟩

/-- Slot 13 reads no command, but any nonzero byte of its active cell (rules R170, R171). -/
theorem exec_clock {s : State} (hq : s.Quiet) (hv : s.cfg.Valid) :
    exec .clock s = runSlot 13 (if s.shared.get s.cfg.aClkActive = 0 then pure () else clockCount) s :=
  runSlot_read hq (addr := (·.aClkActive)) (hv.inShared_addr .clkActive) 13 fun _ a => if a = 0 then pure () else clockCount

/-- Settles O9: for each cell the byte that its slot finds there leaves nothing to do. -/
theorem valuesWithoutOperation : Obligations.ValuesWithoutOperation := by
  intro s hq hv hconst
  obtain ⟨hready, hreset, hdiag, harmed, -, hengage, hdisengage, henable, -⟩ := hconst
  refine ⟨fun h => ?_, fun h h' => ?_, fun t i n hslot h => ?_, fun h => ?_, fun h => ?_, fun c i n hslot h0 h => ?_,
    fun h => ?_⟩
  · exact exec_noOperation hq hv (cell := .irqMarker) rfl nofun (if_neg (hready ▸ h))
  · exact exec_noOperation hq hv (cell := .lockCmd) rfl nofun
      ((if_neg (hengage ▸ h)).trans (if_neg (hdisengage ▸ h')))
  · obtain ⟨hi, hn⟩ := decode_translatorSlot hslot
    rw [← hn]
    exact exec_noOperation hq hv hi nofun (if_neg (harmed ▸ h))
  · exact exec_noOperation hq hv (cell := .resetCmd) rfl nofun (if_neg (hreset ▸ h))
  · exact exec_noOperation hq hv (cell := .mischiefEn) rfl nofun (if_neg (henable ▸ h))
  · obtain ⟨hi, hn⟩ := decode_controllerSlot hslot
    rw [← hn]
    exact exec_noOperation hq hv hi (fun | _, rfl => h0) (if_neg (hdiag ▸ h))
  · rw [exec_clock hq hv, if_pos h, runSlot_pure]
    rfl

end Sys2Proof.Machine

/-!
PROOFS. The statements about the credit tracker and the coin lockout. The three lines of slot 2 are followed by triples over
`Posting`: the memory and the registers hold the statements' ledger so far. Each piece of the slot moves the ledger as
`Claims.lean` says; the other statements follow from what the whole slot leaves (`creditSlot`).
-/

namespace Sys2Proof.Machine

/-! ### The ledger of the statements, case by case (rules R103 to R107) -/

theorem Ledger.coin_single (x : Ledger) (l : Fin 2) {p : Price} (h : p.need ≤ 1) : x.coin l p = x.awarded p.award :=
  if_pos h

theorem Ledger.coin_completes (x : Ledger) (l : Fin 2) {p : Price} (h : ¬ p.need ≤ 1) (hn : x.partialCoins[l] + 1 = p.need) :
    x.coin l p = { x with partialCoins := x.partialCoins.set l 0 }.awarded p.award :=
  (if_neg h).trans (if_pos hn)

theorem Ledger.coin_counts (x : Ledger) (l : Fin 2) {p : Price} (h : ¬ p.need ≤ 1) (hn : x.partialCoins[l] + 1 ≠ p.need) :
    x.coin l p = { x with partialCoins := x.partialCoins.set l (x.partialCoins[l] + 1) } :=
  (if_neg h).trans (if_neg hn)

theorem Ledger.coin_first_of_two (x : Ledger) (l : Fin 2) {p : Price} (h2 : p.need = 2) (h : x.partialCoins[l] = 0) :
    x.coin l p = { x with partialCoins := x.partialCoins.set l 1 } := by
  rw [x.coin_counts l (by rw [h2]; decide) (by rw [h2, h]; decide), h]
  rfl

theorem Ledger.coin_second_of_two (x : Ledger) (l : Fin 2) {p : Price} (h2 : p.need = 2) (h : x.partialCoins[l] = 1) :
    x.coin l p = { x with partialCoins := x.partialCoins.set l 0 }.awarded p.award :=
  x.coin_completes l (by rw [h2]; decide) (by rw [h2, h]; rfl)

section
variable {s : State}

theorem ledgerAfterLines_of_below (hf : s.Fell 2) (hc : ¬ s.cfg.creditCeiling ≤ s.ledgerAfterCoins.phony) :
    s.ledgerAfterLines = s.ledgerAfterCoins.awarded 1 :=
  if_pos ⟨hf, fun h => hc h.2⟩

theorem ledgerAfterLines_of_atCeiling (h : s.ServiceAtCeiling) : s.ledgerAfterLines = s.ledgerAfterCoins :=
  if_neg fun h' => h'.2 h

theorem ledgerAfterLines_of_not_fell (hf : ¬ s.Fell 2) : s.ledgerAfterLines = s.ledgerAfterCoins :=
  if_neg fun h => hf h.1

/-- Coin line A alone falls. -/
theorem ledgerAfterLines_of_coinA (hA : s.Fell 0) (hB : ¬ s.Fell 1) (hS : ¬ s.Fell 2) :
    s.ledgerAfterLines = s.ledger.coin 0 (s.linePrice 0) :=
  calc s.ledgerAfterLines = s.ledgerAfterCoins := ledgerAfterLines_of_not_fell hS
    _ = s.ledgerAfterCoinA := if_neg hB
    _ = s.ledger.coin 0 (s.linePrice 0) := if_pos hA

end

/-! ### The state of slot 2 between two accesses -/

/-- Memory `m` holds the ledger `x` of a slot 2 that began with `s`: the phony counter, the changed flag once it is raised, and
every other cell as it was. -/
structure LedgerMemory (s : State) (x : Ledger) (m : Memory) : Prop where
  phony : m.get s.cfg.aPhony = x.phony
  changed : m.get s.cfg.aChanged = if x.changed then s.cfg.vChanged else s.shared.get s.cfg.aChanged
  others : ∀ a, a ≠ s.cfg.aPhony → a ≠ s.cfg.aChanged → m.get a = s.shared.get a

/-- `base` with the previous bits `p`, the ledger `x` and memory `m`. -/
def State.posted (base : State) (p : Vector Bool 3) (x : Ledger) (m : Memory) : State :=
  { base with prev := p, partialCoins := x.partialCoins, shared := m }

/-- The states of slot 2 in which the previous bits are `p`, the ledger is `x`, and all else is as in `base`. -/
inductive Posting (base : State) (p : Vector Bool 3) (x : Ledger) : State → Prop
  | intro (m : Memory) (h : LedgerMemory base x m) : Posting base p x (base.posted p x m)

theorem phony_ne_changed {c : Cfg} (hv : c.Valid) : c.aPhony ≠ c.aChanged := fun e =>
  absurd (hv.addr_inj (x := .phony) (y := .changed) e) nofun

theorem ledgerMemory_start (s : State) : LedgerMemory s s.ledger s.shared := ⟨rfl, rfl, fun _ _ _ => rfl⟩

theorem LedgerMemory.put_phony {s : State} {x : Ledger} {m : Memory} (hv : s.cfg.Valid) (h : LedgerMemory s x m) (n : Byte) :
    LedgerMemory s { x with phony := n } (m.put s.cfg.aPhony n) where
  phony := by rw [Memory.get_put, if_pos rfl]
  changed := by rw [Memory.get_put, if_neg (phony_ne_changed hv).symm, h.changed]
  others a hp hc := by rw [Memory.get_put, if_neg hp, h.others a hp hc]

theorem LedgerMemory.put_changed {s : State} {x : Ledger} {m : Memory} (hv : s.cfg.Valid) (h : LedgerMemory s x m) :
    LedgerMemory s { x with changed := true } (m.put s.cfg.aChanged s.cfg.vChanged) where
  phony := by rw [Memory.get_put, if_neg (phony_ne_changed hv), h.phony]
  changed := by rw [Memory.get_put, if_pos rfl, if_pos rfl]
  others a hp hc := by rw [Memory.get_put, if_neg hc, h.others a hp hc]

section
variable {α β : Type} {s : State} {p : Vector Bool 3} {x : Ledger}

/-- A register read; the default proof is for every register but the memory. -/
theorem posting_reg {a : α} {g : State → α} {k : α → SlotM β} {T : β → State → Prop}
    (h : Completes (Posting s p x) (k a) T) (hg : ∀ m, g (s.posted p x m) = a := by intros; rfl) :
    Completes (Posting s p x) (reg g >>= k) T := by
  rintro _ ⟨m, hm⟩
  rw [run_bind, run_reg, hg]
  exact h _ (.intro m hm)

/-- The partial counters updated. -/
theorem posting_partialCoins {g : State → State} (w : Vector Byte 2)
    (hg : ∀ m, g (s.posted p x m) = s.posted p { x with partialCoins := w } m := by intros; rfl) :
    Completes (Posting s p x) (update g) fun _ => Posting s p { x with partialCoins := w } := by
  rintro _ ⟨m, hm⟩
  rw [run_update, hg]
  exact .intro m ⟨hm.phony, hm.changed, hm.others⟩

/-- `Edge` answers by the previous bit and replaces it (rule R100). -/
theorem posting_edge {g : Signal} {now : Bool} {k : EdgeCode → SlotM β} {T : β → State → Prop}
    (h : Completes (Posting s (p.set g.idx now) x) (k (edgeCode p[g.idx] now)) T) :
    Completes (Posting s p x) (edge g now >>= k) T := by
  rintro _ ⟨m, hm⟩
  rw [run_bind, run_edge]
  exact h _ (.intro m ⟨hm.phony, hm.changed, hm.others⟩)

variable (hq : s.Quiet) (hv : s.cfg.Valid)
include hq hv

theorem posting_readPhony {k : Byte → SlotM β} {T : β → State → Prop} (h : Completes (Posting s p x) (k x.phony) T) :
    Completes (Posting s p x) (memRead s.cfg.aPhony >>= k) T := by
  rintro _ ⟨m, hm⟩
  have hread := run_memRead_quiet (s.posted p x m) s.cfg.aPhony hq.1 hq.2 (hv.inShared_addr .phony)
  have hn : (s.posted p x m).shared.get s.cfg.aPhony = x.phony := hm.phony
  rw [run_bind, hread, hn]
  exact h _ (.intro m hm)

theorem posting_writePhony (n : Byte) :
    Completes (Posting s p x) (memWrite s.cfg.aPhony n) fun _ => Posting s p { x with phony := n } := by
  rintro _ ⟨m, hm⟩
  rw [run_memWrite_quiet (s.posted p x m) s.cfg.aPhony n hq.1 hq.2 (hv.inShared_addr .phony)]
  exact .intro _ (hm.put_phony hv n)

theorem posting_raiseChanged :
    Completes (Posting s p x) (raiseOneShot s.cfg.aChanged s.cfg.vChanged) fun _ => Posting s p { x with changed := true } := by
  rintro _ ⟨m, hm⟩
  rw [run_raiseOneShot_quiet (s.posted p x m) s.cfg.aChanged s.cfg.vChanged hq.1 hq.2 (hv.inShared_addr .changed)]
  exact .intro _ (hm.put_changed hv)

omit hv in
theorem posting_lockout (l : Bool) :
    Completes (Posting s p x) (portWrite .lockout l) fun _ => Posting (s.drive .lockout l) p x := by
  rintro _ ⟨m, hm⟩
  rw [run_portWrite_quiet (s.posted p x m) .lockout l hq.1]
  exact .intro (base := s.drive .lockout l) m ⟨hm.phony, hm.changed, hm.others⟩

/-! ### The pieces of slot 2 -/

/-- `Award` (rule R106). -/
theorem posting_award (n : Byte) : Completes (Posting s p x) (award n) fun _ => Posting s p (x.awarded n) :=
  posting_reg <| posting_readPhony hq hv <| triple_bind (posting_writePhony hq hv _) fun _ => posting_raiseChanged hq hv

/-- `Accumulate` (rule R104). -/
theorem posting_accumulate (l : Fin 2) {c : Price} (h : ¬ c.need ≤ 1) :
    Completes (Posting s p x) (accumulate l c) fun _ => Posting s p (x.coin l c) := by
  refine triple_bind (posting_partialCoins (x.partialCoins.set l (x.partialCoins[l] + 1))) fun _ => ?_
  refine posting_reg (a := x.partialCoins[l] + 1) ?_ fun _ => Vector.getElem_set_self _
  refine triple_ite (fun hn => ?_) fun hn => ?_
  · rw [x.coin_completes l h hn]
    refine triple_bind (posting_partialCoins (x.partialCoins.set l 0) fun _ => ?_) fun _ => posting_award hq hv _
    simp [State.posted]
  · rw [x.coin_counts l h hn]
    exact triple_pure () fun _ h => h

/-- A falling edge on a coin line (rules R103 to R105). -/
theorem posting_coinFell (l : Fin 2) :
    Completes (Posting s p x) (coinFell l) fun _ => Posting s p (x.coin l (s.linePrice l)) := by
  refine posting_reg (a := s.linePrice l) ?_ fun m => priceOf_eq_linePrice (s.posted p x m) l
  refine triple_ite (fun h => posting_accumulate hq hv l (BitVec.not_le.mpr h)) fun h => ?_
  rw [x.coin_single l (BitVec.not_lt.mp h)]
  exact posting_award hq hv _

omit hq hv in
/-- A line's edge in the statements' word for it. -/
theorem edgeCode_frameBit {j : Fin 3} (hp : p[j] = s.prev[j]) : edgeCode p[j] (s.frameBit j) = .fell ↔ s.Fell j := by
  rw [hp, edgeCode_eq_fell, State.Fell]

open Classical in
/-- `CoinLine` (rule R103). -/
theorem posting_coinLine (l : Fin 2) {j : Fin 3} (hj : (coinSignal l).idx = j) (hp : p[j] = s.prev[j]) :
    Completes (Posting s p x) (coinLine l) fun _ =>
      Posting s (p.set j (s.frameBit j)) (if s.Fell j then x.coin l (s.linePrice l) else x) := by
  subst hj
  refine posting_reg (a := s.frameBit (coinSignal l).idx) ?_ fun m => sig_eq_frameBit (s.posted p x m) _
  refine posting_edge (triple_ite (fun he => ?_) fun he => ?_)
  · rw [if_pos ((edgeCode_frameBit hp).mp he)]
    exact posting_coinFell hq hv l
  · rw [if_neg ((edgeCode_frameBit hp).not.mp he)]
    exact triple_pure () fun _ h => h

end

/-! ### The service line and the threshold (rules R107, R108) -/

open Classical in
/-- The drives the service line makes: the lockout is engaged when it meets the ceiling. -/
noncomputable def State.serviceDrives (s : State) : List (Port × Bool) :=
  if s.ServiceAtCeiling then [(.lockout, true)] else []

open Classical in
/-- `s` with the service line's drives made. -/
noncomputable def State.serviceDriven (s : State) : State := if s.ServiceAtCeiling then s.drive .lockout true else s

theorem drive_serviceDriven (s : State) (l : Bool) :
    s.serviceDriven.drive .lockout l =
      { s with lockout := l, trace := s.trace ++ s.serviceDrives ++ [(.lockout, l)] } := by
  unfold State.serviceDriven State.serviceDrives
  split <;> simp [State.drive]

@[simp] theorem serviceDriven_cfg (s : State) : s.serviceDriven.cfg = s.cfg := by
  unfold State.serviceDriven; split <;> rfl

theorem quiet_serviceDriven {s : State} (hq : s.Quiet) : s.serviceDriven.Quiet := by
  unfold State.serviceDriven; split <;> exact hq

section
variable {s : State} {p : Vector Bool 3} {x : Ledger} (hq : s.Quiet) (hv : s.cfg.Valid)
include hq hv

/-- `Threshold` (rule R108). -/
theorem posting_threshold :
    Completes (Posting s p x) threshold fun _ =>
      Posting (s.drive .lockout (decide (s.cfg.creditCeiling ≤ x.phony))) p x := by
  refine posting_reg <| posting_readPhony hq hv <| triple_ite (fun h => ?_) fun h => ?_
  · rw [decide_eq_true h]
    exact posting_lockout hq true
  · rw [decide_eq_false h]
    exact posting_lockout hq false

/-- A falling edge on the service line (rule R107). -/
theorem posting_serviceFell (hf : s.Fell 2) :
    Completes (Posting s p s.ledgerAfterCoins) serviceFell fun _ => Posting s.serviceDriven p s.ledgerAfterLines := by
  refine posting_reg <| posting_readPhony hq hv <| triple_ite (fun hc => ?_) fun hc => ?_
  · have hat : s.ServiceAtCeiling := ⟨hf, hc⟩
    rw [ledgerAfterLines_of_atCeiling hat, State.serviceDriven, if_pos hat]
    exact posting_lockout hq true
  · rw [ledgerAfterLines_of_below hf hc, State.serviceDriven, if_neg fun h => hc h.2]
    exact posting_award hq hv 1

/-- `ServiceLine` (rule R107). -/
theorem posting_serviceLine (hp : p[2] = s.prev[2]) :
    Completes (Posting s p s.ledgerAfterCoins) serviceLine fun _ =>
      Posting s.serviceDriven (p.set 2 (s.frameBit 2)) s.ledgerAfterLines := by
  refine posting_reg (a := s.frameBit 2) ?_ fun m => sig_eq_frameBit (s.posted p _ m) .service
  refine posting_edge (triple_ite (fun he => posting_serviceFell hq hv ((edgeCode_frameBit hp).mp he)) fun he => ?_)
  have hf : ¬ s.Fell 2 := (edgeCode_frameBit hp).not.mp he
  rw [ledgerAfterLines_of_not_fell hf, State.serviceDriven, if_neg fun hat => hf hat.1]
  exact triple_pure () fun _ h => h

/-- Slot 2 from its first access to its last (rule R102). -/
theorem posting_creditOp :
    Completes (Posting s s.prev s.ledger) creditOp fun _ =>
      Posting (s.serviceDriven.drive .lockout (decide (s.cfg.creditCeiling ≤ s.ledgerAfterLines.phony)))
        (((s.prev.set 0 (s.frameBit 0)).set 1 (s.frameBit 1)).set 2 (s.frameBit 2)) s.ledgerAfterLines := by
  refine triple_bind (posting_coinLine hq hv 0 (j := 0) rfl rfl) fun _ => ?_
  refine triple_bind (posting_coinLine hq hv 1 (j := 1) rfl (by simp)) fun _ => ?_
  refine triple_bind (posting_serviceLine hq hv (by simp)) fun _ => ?_
  rw [← serviceDriven_cfg s] at hv ⊢
  exact posting_threshold (quiet_serviceDriven hq) hv

end

theorem vector_set_all {α : Type} (v : Vector α 3) (a b c : α) : ((v.set 0 a).set 1 b).set 2 c = #v[a, b, c] := by
  ext i hi
  interval_cases i <;> simp

/-- Settles O12: the slot's triple, begun with `pc` at slot 2; the level is the threshold's decision, the drives before it are
the service line's. -/
theorem creditSlot : Obligations.CreditSlot := by
  intro s hq hv
  have hop := posting_creditOp (s := { s with pc := .slot 2 }) hq hv
  rw [drive_serviceDriven, vector_set_all] at hop
  have hstart : ∀ t, t = { s with pc := .slot 2 } → Posting { s with pc := .slot 2 } s.prev s.ledger t := by
    rintro _ rfl
    exact .intro _ (ledgerMemory_start _)
  obtain ⟨_, ⟨m, hm⟩, hexec⟩ := runSlot_of_completes (triple_conseq hop hstart fun _ _ h => h)
  exact ⟨m, _, s.serviceDrives, hexec, decide_eq_true_iff, fun hat => if_pos hat, fun hat => if_neg hat, hm.phony,
    fun h => hm.changed.trans (if_pos h), fun h => hm.changed.trans (if_neg (Bool.eq_false_iff.mp h)), hm.others⟩

/-! ### Two coins for one credit (rules R103, R104, R112) -/

/-- Settles O13: in the first run the ledger counts the coin, in the second the price is met. -/
theorem twoCoinsOneCredit : Obligations.TwoCoinsOneCredit := by
  intro s t u hq hv hneed hempty hA hB hS hrun hu
  obtain ⟨m, l, d, hfirst, -, -, -, hphony, -⟩ := creditSlot s hq hv
  rw [ledgerAfterLines_of_coinA hA hB hS, s.ledger.coin_first_of_two 0 hneed hempty] at hfirst hphony
  obtain rfl := Host.Outcome.next.inj (hfirst.symm.trans hrun)
  have hone : u.ledger.partialCoins[0] = 1 := by rw [hu]; exact Vector.getElem_set_self _
  obtain ⟨huA, huB, huS⟩ : u.Fell 0 ∧ ¬ u.Fell 1 ∧ ¬ u.Fell 2 := by
    rw [hu]
    exact ⟨⟨rfl, hA.2⟩, fun h => Bool.false_ne_true h.1, fun h => Bool.false_ne_true h.1⟩
  obtain ⟨huq, hcfg, hprice, hbegin⟩ : u.Quiet ∧ u.cfg = s.cfg ∧ u.linePrice 0 = s.linePrice 0 ∧
      u.ledger.phony = s.shared.get s.cfg.aPhony := by
    rw [hu]
    exact ⟨hq, rfl, rfl, hphony⟩
  obtain ⟨m', l', d', hsecond, -, -, -, hphony', hchanged', -⟩ := creditSlot u huq (hcfg ▸ hv)
  rw [ledgerAfterLines_of_coinA huA huB huS, hprice, u.ledger.coin_second_of_two 0 hneed hone] at hsecond hphony' hchanged'
  rw [hcfg] at hphony' hchanged'
  refine ⟨hphony, Vector.getElem_set_self _, _, hsecond, Vector.getElem_set_self _, ?_, hchanged' rfl⟩
  exact hphony'.trans (congrArg (· + (s.linePrice 0).award) hbegin)

/-! ### The HOST's lockout command (rules R109 to R111) -/

/-- A slot that only drives a port. -/
theorem runSlot_drive {s : State} (hq : s.Quiet) (n : Fin 21) (p : Port) (l : Bool) :
    runSlot n (portWrite p l) s = .next { s.drive p l with pc := nextPc n } := by
  rw [runSlot_of_ok n _ s _ (run_portWrite_quiet { s with pc := .slot n } p l hq.1)]
  cases p <;> rfl

/-- `LOCK` is what follows the HOST's byte (rule R110). -/
theorem exec_lock {s : State} (hq : s.Quiet) (hv : s.cfg.Valid) :
    exec .lock s = runSlot 3 (afterRead s.cfg (s.shared.get s.cfg.aLockCmd) .lockCmd) s :=
  exec_slotOfCell hq hv (cell := .lockCmd) rfl nofun

/-- The command for the level `l`, applied and left to stand. -/
theorem exec_lock_command {s : State} (hq : s.Quiet) (hv : s.cfg.Valid) (hne : s.cfg.vLockEngage ≠ s.cfg.vLockDisengage)
    (l : Bool) (h : s.shared.get s.cfg.aLockCmd = if l then s.cfg.vLockEngage else s.cfg.vLockDisengage) :
    exec .lock s = .next { s with pc := .slot 4, lockout := l, trace := s.trace ++ [(.lockout, l)] } := by
  have hop : afterRead s.cfg (s.shared.get s.cfg.aLockCmd) .lockCmd = portWrite .lockout l := by
    rw [h, afterRead]
    cases l with
    | true => exact if_pos rfl
    | false => exact (if_neg hne.symm).trans (if_pos rfl)
  rw [exec_lock hq hv, hop]
  exact runSlot_drive hq 3 .lockout l

/-- Settles O14: each of the two commands drives its level, and any other byte leaves slot 3 nothing to do. -/
theorem lockSlot : Obligations.LockSlot := by
  intro s hq hv hne
  refine ⟨exec_lock_command hq hv hne true, exec_lock_command hq hv hne false, fun he hd => ?_,
    runSlot_drive hq 3 .lockout true, runSlot_drive hq 3 .lockout false⟩
  exact exec_noOperation hq hv (cell := .lockCmd) rfl nofun ((if_neg he).trans (if_neg hd))

/-- Settles O15: the threshold's drive is slot 2's last, and slot 2 leaves the HOST's command alone. -/
theorem lockoutThrash : Obligations.LockoutThrash := by
  intro s hq hv hne hr hp l hl hcmd
  obtain ⟨m, l', d, hcredit, hl', -, -, -, -, -, hothers⟩ := creditSlot s hq hv
  obtain rfl : l' = l := Bool.eq_iff_iff.mpr (hl'.trans hl)
  have hstays : m.get s.cfg.aLockCmd = s.shared.get s.cfg.aLockCmd :=
    hothers _ ((hv.addr_eq .lockCmd .phony).not.mpr nofun) ((hv.addr_eq .lockCmd .changed).not.mpr nofun)
  refine ⟨_, _, d, (stepRunsSlot s 2 .credit hr hp rfl).trans hcredit,
    (stepRunsSlot _ 3 .lock ?_ rfl rfl).trans (exec_lock_command ?_ ?_ ?_ (!l') ?_), rfl, rfl, ?_⟩
  · exact hr
  · exact hq
  · exact hv
  · exact hne
  · refine hstays.trans (hcmd.trans ?_)
    cases l' <;> rfl
  · simp

end Sys2Proof.Machine

/-!
PROOFS. The statements about the controllers, and the causes of a terminal status. In a quiet state every command runs to one
state, its result in its three places (`State.served`); a controller's slot is what `afterCommand` leaves for the byte it
finds, and the statements go through the byte's three kinds: idle, mapped, unmapped.
-/

namespace Sys2Proof

/-! ### The command maps (rules R65, R66) -/

theorem Cfg.mapBytes_credit (cfg : Cfg) (k : Fin 2) : cfg.mapBytes k.castSucc = cfg.creditMap[k].bytes := dif_pos k.isLt

theorem Cfg.mapBytes_level (cfg : Cfg) : cfg.mapBytes 2 = cfg.levelMap.bytes := rfl

/-- A map selects no operation by a byte that it does not assign. -/
theorem CreditMap.op_of_not_mem {m : CreditMap} {v : Byte} (h : v ∉ m.bytes) : m.op v = none := by
  cases hop : m.op v with
  | none => rfl
  | some op => exact absurd (byteOf_of_op hop ▸ m.byteOf_mem op) h

/-- A map selects no operation by a byte that it does not assign. -/
theorem LevelMap.op_of_not_mem {m : LevelMap} {v : Byte} (h : v ∉ m.bytes) : m.op v = none := by
  cases hop : m.op v with
  | none => rfl
  | some op => exact absurd (byteOf_of_op hop ▸ m.byteOf_mem op) h

/-- Every byte of a map is an operation's. -/
theorem CreditMap.exists_byteOf {m : CreditMap} {v : Byte} (h : v ∈ m.bytes) : ∃ op, v = m.byteOf op := by
  simp only [CreditMap.bytes, List.mem_cons, List.not_mem_nil, or_false] at h
  rcases h with rfl | rfl | rfl | rfl
  exacts [⟨.derive, rfl⟩, ⟨.inc, rfl⟩, ⟨.dec, rfl⟩, ⟨.setMax, rfl⟩]

/-- Every byte of a map is an operation's. -/
theorem LevelMap.exists_byteOf {m : LevelMap} {v : Byte} (h : v ∈ m.bytes) : ∃ op, v = m.byteOf op := by
  simp only [LevelMap.bytes, List.mem_cons, List.not_mem_nil, or_false] at h
  rcases h with rfl | rfl | rfl | rfl | rfl | rfl | rfl
  exacts [⟨.set00, rfl⟩, ⟨.inc, rfl⟩, ⟨.set31, rfl⟩, ⟨.set62, rfl⟩, ⟨.set63, rfl⟩, ⟨.set64, rfl⟩, ⟨.set65, rfl⟩]

end Sys2Proof

namespace Sys2Proof.Machine

/-! ### The commands in a quiet state (rules R122 to R127) -/

/-- Controller `c` has completed with result `r` (rule R127). -/
def State.served (s : State) (c : Fin 3) (r : Byte) : State :=
  { s with ctrlCache := s.ctrlCache.set c r, shared := (s.shared.put s.cfg.aCtrlOut[c] r).put s.cfg.aCtrlCmd[c] 0 }

section
variable {s : State} (hq : s.Quiet) (hv : s.cfg.Valid)
include hq hv

theorem run_complete {c : Fin 3} {r : Byte} : (complete c r).run s = .ok () (s.served c r) := by
  obtain ⟨hcold, hrace⟩ := hq
  have hout := run_memWrite_quiet s s.cfg.aCtrlOut[c] r hcold hrace (inShared_ctrlOut hv c)
  have hcmd := run_memWrite_quiet
    { s with ctrlCache := s.ctrlCache.set c r, shared := s.shared.put s.cfg.aCtrlOut[c] r }
    s.cfg.aCtrlCmd[c] 0 hcold hrace (inShared_ctrlCmd hv c)
  simp only [complete, run_bind, run_reg, hout, run_update, hcmd]
  rfl

theorem run_operand {c : Fin 3} : (operand c).run s = .ok (s.operandOf c) s := by
  have hout := run_memRead_quiet s s.cfg.aCtrlOut[c] hq.1 hq.2 (inShared_ctrlOut hv c)
  unfold operand State.operandOf
  rw [run_bind, run_reg]
  cases hsrc : s.cfg.ctrlOperand with
  | cache => simp only [hsrc, run_reg]
  | output => simp only [hsrc, hout]

theorem run_deriveCommand {k : Fin 2} :
    (deriveCommand k).run s = .ok () (s.served k.castSucc (deriveByte s.cfg k s.bank)) := by
  simp only [deriveCommand, run_bind, run_reg, run_complete hq hv]

theorem run_incCommand {c : Fin 3} :
    (incCommand c).run s = .ok () (s.served c (s.incremented c (incAmount s.cfg c))) := by
  simp only [incCommand, run_bind, run_reg, run_operand hq hv, incClamp_eq, run_complete hq hv]

theorem run_decCommand {c : Fin 3} : (decCommand c).run s = .ok () (s.served c (s.operandOf c - 1)) := by
  simp only [decCommand, run_bind, run_operand hq hv, run_complete hq hv]

theorem run_setMaxCommand {c : Fin 3} : (setMaxCommand c).run s = .ok () (s.served c s.cfg.ctrlMax[c]) := by
  simp only [setMaxCommand, run_bind, run_reg, run_complete hq hv]

theorem run_setCommand {k : LevelTargets → Byte} : (setCommand k).run s = .ok () (s.served 2 (k s.cfg.levelTargets)) := by
  simp only [setCommand, run_bind, run_reg, run_complete hq hv]

theorem run_creditCommand {k : Fin 2} {op : CreditOp} :
    ∃ r, s.CreditResult k r op ∧ (creditCommand k op).run s = .ok () (s.served k.castSucc r) := by
  cases op with
  | derive => exact ⟨_, derives_deriveByte hv k, run_deriveCommand hq hv⟩
  | inc => exact ⟨_, rfl, incAmount_credit s.cfg k ▸ run_incCommand hq hv⟩
  | dec => exact ⟨_, rfl, run_decCommand hq hv⟩
  | setMax => exact ⟨_, rfl, run_setMaxCommand hq hv⟩

theorem run_levelCommand {op : LevelOp} : (levelCommand op).run s = .ok () (s.served 2 (s.levelResult op)) := by
  cases op with
  | inc => exact run_incCommand hq hv
  | set00 | set31 | set62 | set63 | set64 | set65 => exact run_setCommand hq hv

end

/-! ### The commands as slots -/

/-- The environment keeps out at every slot alike. -/
theorem State.Quiet.atSlot {s : State} (hq : s.Quiet) (n : Fin 21) : ({ s with pc := .slot n } : State).Quiet := hq

/-- A slot of controller `c` that serves a command has completed as the statements say. -/
theorem completedWith_of_run {s : State} (hv : s.cfg.Valid) {c : Fin 3} {n : Fin 21} {r : Byte} {op : SlotM Unit}
    (hn : nextPc n = .slot (n + 1))
    (h : op.run { s with pc := .slot n } = .ok () (({ s with pc := .slot n } : State).served c r)) :
    CompletedWith s c n r (runSlot n op s) := by
  refine ⟨(s.shared.put s.cfg.aCtrlOut[c] r).put s.cfg.aCtrlCmd[c] 0, ?_, ?_, ?_, fun a hout hcmd => ?_⟩
  · rw [runSlot_of_ok n op s _ h, hn]
    rfl
  · rw [Memory.get_put, if_neg (ctrlOut_ne_ctrlCmd hv c), Memory.get_put, if_pos rfl]
  · rw [Memory.get_put, if_pos rfl]
  · rw [Memory.get_put, if_neg hcmd, Memory.get_put, if_neg hout]

/-- Adding 255 is the decrement without a clamp (rule R124). -/
theorem sub_one_eq_ofNat (v : Byte) : v - 1 = BitVec.ofNat 8 (v.toNat + 255) := by
  bv_omega

/-! ### The controllers' slots (rules R121, R128, R129) -/

/-- The slot of controller `c` (rule R60). -/
theorem slot_of_controllerSlots {c : Fin 3} {i : Instr} {n : Fin 21} (h : (c, i, n) ∈ controllerSlots) :
    n = ctrlSlot c := by
  simp only [controllerSlots, List.mem_cons, Prod.mk.injEq, List.not_mem_nil, or_false] at h
  rcases h with ⟨rfl, -, rfl⟩ | ⟨rfl, -, rfl⟩ | ⟨rfl, -, rfl⟩ <;> rfl

/-- No controller's slot is the tick's last. -/
theorem nextPc_ctrlSlot (c : Fin 3) : nextPc (ctrlSlot c) = .slot (ctrlSlot c + 1) := by
  fin_cases c <;> rfl

/-- A controller's slot goes on with the byte in its command cell. -/
theorem exec_controllerSlot {s : State} (hq : s.Quiet) (hv : s.cfg.Valid) {c : Fin 3} {i : Instr} {n : Fin 21}
    (h : (c, i, n) ∈ controllerSlots) :
    exec i s = runSlot (ctrlSlot c) (afterCommand s.cfg (s.shared.get s.cfg.aCtrlCmd[c]) c) s :=
  exec_slotOfCell hq hv (cell := .ctrlCmd c) (decode_controllerSlot h).1 nofun

theorem afterCommand_idle (cfg : Cfg) (c : Fin 3) : afterCommand cfg 0 c = diagnostic c := if_pos rfl

theorem afterCommand_credit (cfg : Cfg) {v : Byte} (h0 : v ≠ 0) (k : Fin 2) :
    afterCommand cfg v k.castSucc = match cfg.creditMap[k].op v with
      | some op => creditCommand k op
      | none => raise (.refused (.unmappedCommand k.castSucc v)) := by
  refine (if_neg h0).trans ?_
  match k with
  | 0 | 1 => rfl

theorem afterCommand_level (cfg : Cfg) {v : Byte} (h0 : v ≠ 0) :
    afterCommand cfg v 2 = match cfg.levelMap.op v with
      | some op => levelCommand op
      | none => raise (.refused (.unmappedCommand 2 v)) := if_neg h0

theorem afterCommand_creditByte {cfg : Cfg} (hv : cfg.Valid) (k : Fin 2) (op : CreditOp) :
    afterCommand cfg (cfg.creditMap[k].byteOf op) k.castSucc = creditCommand k op := by
  rw [afterCommand_credit cfg (hv.creditByte_ne_zero k op), CreditMap.op_byteOf (hv.maps.1 k).1]

theorem afterCommand_levelByte {cfg : Cfg} (hv : cfg.Valid) (op : LevelOp) :
    afterCommand cfg (cfg.levelMap.byteOf op) 2 = levelCommand op := by
  rw [afterCommand_level cfg (hv.levelByte_ne_zero op), LevelMap.op_byteOf hv.maps.2.1]

/-- A byte that is neither idle nor in the map is refused (rule R129). -/
theorem afterCommand_unmapped {cfg : Cfg} {v : Byte} (h0 : v ≠ 0) (c : Fin 3) (h : v ∉ cfg.mapBytes c) :
    afterCommand cfg v c = raise (.refused (.unmappedCommand c v)) := by
  cases c using Fin.lastCases with
  | last => exact (afterCommand_level cfg h0).trans (by rw [LevelMap.op_of_not_mem h]; rfl)
  | cast k => rw [afterCommand_credit cfg h0, CreditMap.op_of_not_mem (cfg.mapBytes_credit k ▸ h)]

theorem runSlot_raise (n : Fin 21) (st : Status) (s : State) :
    runSlot n (raise st) s = .next { s with pc := .slot n, status := st } := rfl

/-- Settles O16: the byte finds its own operation, and the operation runs to its result. -/
theorem controllerServes : Obligations.ControllerServes := by
  intro s hq hv
  refine ⟨fun k i n op hslot hcmd => ?_, fun op hcmd => ?_⟩
  · obtain rfl := slot_of_controllerSlots hslot
    obtain ⟨r, hres, hrun⟩ := run_creditCommand (k := k) (op := op) (hq.atSlot (ctrlSlot k.castSucc)) hv
    refine ⟨r, hres, ?_⟩
    rw [exec_controllerSlot hq hv hslot, hcmd, afterCommand_creditByte hv]
    exact completedWith_of_run hv (nextPc_ctrlSlot _) hrun
  · have hslot : ((2 : Fin 3), Instr.ctrl2, (6 : Fin 21)) ∈ controllerSlots := by decide
    rw [exec_controllerSlot hq hv hslot, hcmd, afterCommand_levelByte hv]
    exact completedWith_of_run hv rfl (run_levelCommand (hq.atSlot 6) hv)

/-- Settles O18: what the slot has left to do after such a byte is the refusal. -/
theorem unmappedCommandRefused : Obligations.UnmappedCommandRefused := by
  intro s v hq hv h0
  have refuses (c : Fin 3) (i : Instr) (n : Fin 21) (hslot : (c, i, n) ∈ controllerSlots)
      (hcmd : s.shared.get s.cfg.aCtrlCmd[c] = v) (hmap : v ∉ s.cfg.mapBytes c) :
      exec i s = .next { s with pc := .slot n, status := .refused (.unmappedCommand c v) } := by
    rw [exec_controllerSlot hq hv hslot, hcmd, afterCommand_unmapped h0 c hmap, runSlot_raise,
      slot_of_controllerSlots hslot]
  exact ⟨fun k i n hslot hcmd hmap => refuses _ i n hslot hcmd (s.cfg.mapBytes_credit k ▸ hmap),
    refuses 2 .ctrl2 6 (by decide)⟩

section
variable {s : State} (hq : s.Quiet) (hv : s.cfg.Valid)
include hq hv

/-- The consistency check (rule R128): output cell against register. -/
theorem runSlot_consistencyCheck (c : Fin 3) (n : Fin 21) :
    runSlot n (consistencyCheck c) s =
      if s.shared.get s.cfg.aCtrlOut[c] ≠ s.ctrlCache[c] then .next { s with pc := .slot n, status := .poisoned c }
      else .next { s with pc := nextPc n } := by
  have hread := run_memRead_quiet { s with pc := .slot n } s.cfg.aCtrlOut[c] hq.1 hq.2 (inShared_ctrlOut hv c)
  by_cases hdiffer : s.shared.get s.cfg.aCtrlOut[c] ≠ s.ctrlCache[c]
  · simp only [runSlot, consistencyCheck, run_bind, run_reg, hread, run_raise, if_pos hdiffer]
  · simp only [runSlot, consistencyCheck, run_bind, run_reg, hread, run_pure, if_neg hdiffer]

/-- The diagnostic (rule R128): the check, behind the gate's marker. -/
theorem runSlot_diagnostic (c : Fin 3) (n : Fin 21) :
    runSlot n (diagnostic c) s =
      if s.shared.get s.cfg.aCtrlGate[c] = s.cfg.vDiag ∧ s.shared.get s.cfg.aCtrlOut[c] ≠ s.ctrlCache[c] then
        .next { s with pc := .slot n, status := .poisoned c }
      else .next { s with pc := nextPc n } := by
  have hgate := runSlot_read hq (addr := (·.aCtrlGate[c])) (hv.inShared_gate c) n
    fun cfg g => if g = cfg.vDiag then consistencyCheck c else pure ()
  refine hgate.trans ?_
  by_cases hmarker : s.shared.get s.cfg.aCtrlGate[c] = s.cfg.vDiag
  · simp only [hmarker, if_true, true_and, runSlot_consistencyCheck hq hv]
  · simp only [hmarker, if_false, false_and, runSlot_pure]

end

/-- Settles O17: all three forms are the diagnostic, or the check behind it. -/
theorem controllerIdle : Obligations.ControllerIdle := by
  intro s c j n i hq hv hslot hi
  have hdiag : exec i s = runSlot (ctrlSlot c) (diagnostic c) s := by
    rcases hi with rfl | ⟨rfl, hcmd⟩
    · rfl
    · rw [exec_controllerSlot hq hv hslot, hcmd, afterCommand_idle]
  have hcheck : exec (.diagGate c) s = runSlot (ctrlSlot c) (consistencyCheck c) s := rfl
  obtain rfl := slot_of_controllerSlots hslot
  rw [hdiag, hcheck, runSlot_diagnostic hq hv, runSlot_consistencyCheck hq hv, nextPc_ctrlSlot]
  exact ⟨fun h => if_pos h, fun h => if_neg h, fun h => if_pos h, fun h => if_neg (not_not.mpr h)⟩

end Sys2Proof.Machine

namespace Sys2Proof

open Machine

/-! ### The commands' own instructions -/

/-- Settles O19: the table's entry at the bits' index is the result. -/
theorem deriveCommand : Obligations.DeriveCommand := by
  intro s hq hv
  exact ⟨⟨_, derives_deriveByte hv 0, completedWith_of_run hv rfl (run_deriveCommand (hq.atSlot 4) hv)⟩,
    ⟨_, derives_deriveByte hv 1, completedWith_of_run hv rfl (run_deriveCommand (hq.atSlot 5) hv)⟩⟩

/-- Settles O20: the saturating increment by each controller's amount. -/
theorem incCommand : Obligations.IncCommand := by
  intro s hq hv
  have level : CompletedWith s 2 6 (s.incremented 2 s.cfg.levelTargets.plus) (exec .ctrl2Inc s) :=
    completedWith_of_run hv rfl (run_incCommand (hq.atSlot 6) hv)
  refine ⟨completedWith_of_run hv rfl (run_incCommand (hq.atSlot 4) hv),
    completedWith_of_run hv rfl (run_incCommand (hq.atSlot 5) hv), level, fun hconst => ?_⟩
  obtain ⟨-, -, -, -, -, -, -, -, -, -, -, -, -, htargets⟩ := hconst
  rw [htargets] at level
  exact level

/-- Settles O21: `DEC` at both controllers. -/
theorem decCommand : Obligations.DecCommand := by
  intro s hq hv
  rw [← sub_one_eq_ofNat, ← sub_one_eq_ofNat]
  exact ⟨completedWith_of_run hv rfl (run_decCommand (hq.atSlot 4) hv),
    completedWith_of_run hv rfl (run_decCommand (hq.atSlot 5) hv)⟩

/-- Settles O22: `SETMAX` at both controllers. -/
theorem setMaxCommand : Obligations.SetMaxCommand := by
  intro s hq hv
  exact ⟨completedWith_of_run hv rfl (run_setMaxCommand (hq.atSlot 4) hv),
    completedWith_of_run hv rfl (run_setMaxCommand (hq.atSlot 5) hv)⟩

/-- Settles O23: each target's constant is the literal of table 4.2. -/
theorem setCommands : Obligations.SetCommands := by
  intro s hq hv hconst
  obtain ⟨-, -, -, -, -, -, -, -, -, -, -, -, -, htargets⟩ := hconst
  have completes (k : LevelTargets → Byte) :
      CompletedWith s 2 6 (k ⟨0x00, 0x01, 0x31, 0x62, 0x63, 0x64, 0x65⟩) (runSlot 6 (setCommand k) s) := by
    rw [← htargets]
    exact completedWith_of_run hv rfl (run_setCommand (hq.atSlot 6) hv)
  exact ⟨completes (·.set00), completes (·.set31), completes (·.set62), completes (·.set63), completes (·.set64),
    completes (·.set65)⟩

end Sys2Proof

namespace Sys2Proof.Machine

/-! ### Slots that nothing can stop -/

/-- What a creeper at its cycle boundary does with the selector it has read (rules R144, R145). -/
def latchSelector (k : Fin 4) (n : Byte) : SlotM Unit := do
  update fun s => { s with creepTable := s.creepTable.set k n }
  if n > 40 then raise (.refused (.creeperSelector k n)) else emitCreeper k n 0

/-- A sampled selector above 40 is latched, and stops the slot (rule R145). -/
theorem runSlot_latchSelector_above {k : Fin 4} {v : Byte} (h : v > 40) (n : Fin 21) (s : State) :
    runSlot n (latchSelector k v) s = .next { s with
      pc := .slot n, creepTable := s.creepTable.set k v, status := .refused (.creeperSelector k v) } := by
  simp only [runSlot, latchSelector, run_bind, run_update, if_pos h, run_raise]

/-- A slot is under way with configuration `c`: the environment keeps out, and nothing has stopped the CORE. -/
structure State.Going (c : Cfg) (s : State) : Prop where
  cfg : s.cfg = c
  quiet : s.Quiet
  running : s.status = .running

/-- The piece `m` of a slot goes through; where it ends early (rule R196), the CORE runs nevertheless. -/
abbrev Goes {α : Type} (c : Cfg) (m : SlotM α) : Prop :=
  Triple (fun t => t.status = .running) (State.Going c) m fun _ => State.Going c

theorem undisturbed_going {c : Cfg} : Undisturbed (fun t => t.status = .running) (State.Going c) where
  count _ _ _ h hcold := absurd (h.quiet.1.symm.trans hcold) nofun
  cold _ _ _ _ := rfl
  race s ws r h hi hrace := by
    rcases h.quiet.2 with hoff | hnone
    · exact absurd (hoff.symm.trans hi) nofun
    · exact absurd (hnone.symm.trans hrace) nofun
  draw _ _ h := ⟨h.cfg, h.quiet, h.running⟩

section
variable {α β : Type} {c : Cfg}

theorem goes_pure (a : α) : Goes c (pure a : SlotM α) := triple_pure a fun _ h => h

theorem goes_ite {p : Prop} [Decidable p] {m m' : SlotM α} (h : Goes c m) (h' : Goes c m') :
    Goes c (if p then m else m') :=
  triple_ite (fun _ => h) fun _ => h'

theorem goes_cfg {f : Cfg → SlotM β} (h : Goes c (f c)) : Goes c (reg (·.cfg) >>= f) := triple_cfg (fun _ h => h.cfg) h

theorem goes_reg {f : State → α} {g : α → SlotM β} (h : ∀ a, Goes c (g a)) : Goes c (reg f >>= g) :=
  triple_bind (triple_reg f fun _ hs => hs) h

/-- A register update; the default proof is for every record update of a register. -/
theorem goes_update (f : State → State)
    (h : ∀ s, s.Going c → (f s).Going c := by exact fun _ h => ⟨h.cfg, h.quiet, h.running⟩) : Goes c (update f) :=
  triple_update f h

theorem goes_drive (p : Port) (l : Bool) : Goes c (portWrite p l) :=
  triple_portWrite undisturbed_going p l fun s h => by
    cases p <;> exact ⟨h.cfg, h.quiet, h.running⟩

theorem goes_write {a : Nat} (ha : InShared a) (v : Byte) : Goes c (memWrite a v) :=
  triple_memWrite undisturbed_going a v ha fun _ h => ⟨h.cfg, h.quiet, h.running⟩

variable (hc : c.Valid)
include hc

theorem goes_readCell (x : PlainCell) : Goes c (memRead (c.addr x)) :=
  triple_conseq (triple_memRead undisturbed_going _ (hc.inShared_addr x)) (fun _ h => h) fun _ _ h => h.1

theorem goes_writeCell (x : PlainCell) (v : Byte) : Goes c (memWrite (c.addr x) v) := goes_write (hc.inShared_addr x) v

/-! #### The slots 0, 1 and 3 -/

theorem goes_irqOp : Goes c irqOp :=
  have pulse : Goes c pulse :=
    triple_bind (goes_drive _ _) fun _ => triple_bind (goes_drive _ _) fun _ => goes_drive _ _
  goes_cfg <| triple_bind (goes_readCell hc .irqMarker) fun _ => goes_ite pulse (goes_pure ())

theorem goes_relayBank (b : Fin 4) : Goes c (relayBank b) :=
  goes_cfg <| triple_bind (triple_memRead_input undisturbed_going b) fun _ =>
    triple_bind (goes_update _) fun _ => goes_writeCell hc (.bankMirror b) _

theorem goes_inputRelayOp : Goes c inputRelayOp :=
  goes_cfg <| triple_bind (triple_readCab undisturbed_going) fun _ => triple_bind (goes_update _) fun _ =>
    triple_bind (goes_writeCell hc .cabMirror _) fun _ =>
      triple_bind (goes_relayBank hc 0) fun _ => triple_bind (goes_relayBank hc 1) fun _ =>
        triple_bind (goes_relayBank hc 2) fun _ => goes_relayBank hc 3

theorem goes_lockOp : Goes c lockOp :=
  goes_cfg <| triple_bind (goes_readCell hc .lockCmd) fun _ =>
    goes_ite (goes_drive _ _) (goes_ite (goes_drive _ _) (goes_pure ()))

/-! #### The beastie relays -/

theorem goes_verticalResult (p : Fin 2) (i : Fin 7) : Goes c (verticalResult p i) :=
  goes_cfg <| triple_bind (goes_readCell hc (.bY i)) fun _ => goes_reg fun _ =>
    triple_bind (goes_writeCell hc (.oVCode p i) _) fun _ => triple_bind (goes_writeCell hc (.oVDist p i) _) fun _ =>
      goes_update _ fun s h => by
        split
        · exact ⟨h.cfg, h.quiet, h.running⟩
        · exact h

theorem goes_horizontalResult (p : Fin 2) (i : Fin 7) : Goes c (horizontalResult p i) :=
  goes_cfg <| triple_bind (goes_readCell hc (.bX i)) fun _ => goes_reg fun _ =>
    triple_bind (goes_writeCell hc (.oHCode p i) _) fun _ => triple_bind (goes_writeCell hc (.oHDist p i) _) fun _ =>
      goes_pure _

theorem goes_killRequest (p : Fin 2) : Goes c (killRequest p) :=
  goes_cfg <| triple_bind (goes_readCell hc (.pLive p)) fun _ => goes_ite
    (triple_bind (goes_writeCell hc (.killReq p) _) fun _ => goes_reg fun _ =>
      triple_bind (goes_writeCell hc (.killIdx p) _) fun _ => goes_pure _)
    (goes_pure _)

theorem goes_visitBeastie (p : Fin 2) (i : Fin 7) : Goes c (visitBeastie p i) :=
  goes_cfg <| triple_bind (goes_update _) fun _ => triple_bind (goes_readCell hc (.bStage i)) fun _ => goes_ite
    (triple_bind (goes_verticalResult hc p i) fun _ => triple_bind (goes_horizontalResult hc p i) fun _ =>
      goes_reg fun _ => goes_ite (goes_killRequest hc p) (goes_pure _))
    (goes_pure _)

theorem goes_sweep (p : Fin 2) (l : List (Fin 7)) : Goes c (sweep p l) := by
  induction l with
  | nil => exact goes_pure ()
  | cons i rest ih => exact triple_bind (goes_visitBeastie hc p i) fun _ => goes_ite (goes_pure ()) ih

theorem goes_beastieRelay (p : Fin 2) : Goes c (beastieRelay p) :=
  goes_cfg <| triple_bind (goes_readCell hc (.pLive p)) fun _ => goes_ite
    (goes_cfg <| triple_bind (goes_readCell hc (.pX p)) fun _ => triple_bind (goes_update _) fun _ =>
      triple_bind (goes_readCell hc (.pY p)) fun _ => triple_bind (goes_update _) fun _ =>
        triple_bind (goes_update _) fun _ => goes_sweep hc p _)
    (goes_pure ())

/-! #### The slots 13 to 15, 19 and 20, and what creepers and translators do when nothing stops them -/

theorem goes_clockOp : Goes c clockOp :=
  goes_cfg <| triple_bind (goes_readCell hc .clkActive) fun _ => goes_ite (goes_pure ()) <|
    goes_cfg <| triple_bind (goes_readCell hc .clkHi) fun _ => triple_bind (goes_readCell hc .clkLo) fun _ => goes_ite
      (triple_bind (goes_writeCell hc .clkActive _) fun _ => goes_writeCell hc .clkDone _)
      (triple_bind (goes_writeCell hc .clkHi _) fun _ => goes_writeCell hc .clkLo _)

theorem goes_mischiefOp : Goes c mischiefOp :=
  goes_cfg <| triple_bind (goes_readCell hc .mischiefEn) fun _ => goes_ite
    (goes_cfg <| goes_reg fun _ => goes_ite (goes_writeCell hc .phony _) (goes_pure ()))
    (goes_pure ())

theorem goes_extendOp : Goes c extendOp :=
  goes_cfg <| triple_bind (goes_readCell hc .extend) fun _ => goes_writeCell hc .extend _

theorem goes_resetWatcherOp : Goes c resetWatcherOp :=
  goes_cfg <| triple_bind (goes_readCell hc .resetCmd) fun _ =>
    goes_ite (triple_restartNow fun _ _ => rfl) (goes_pure ())

theorem goes_delayOp : Goes c delayOp :=
  goes_cfg <| triple_bind (goes_readCell hc .delayMarker) fun _ => goes_ite (goes_pure ()) (goes_pure ())

theorem goes_emitCreeper (k : Fin 4) (n i : Byte) : Goes c (emitCreeper k n i) :=
  goes_cfg <| triple_bind (goes_writeCell hc (.creepOut k) _) fun _ => goes_update _

theorem goes_latchSelector {k : Fin 4} {n : Byte} (h : ¬ n > 40) : Goes c (latchSelector k n) :=
  triple_bind (goes_update _) fun _ => triple_ite (fun habove => absurd habove h) fun _ => goes_emitCreeper hc k n 0

theorem goes_copyByte (x : Fin 3) (n : Byte) : Goes c (copyByte x n) :=
  goes_cfg <| triple_bind (goes_readCell hc (.xlIndex x)) fun _ => triple_bind (goes_readCell hc (.xlOffset x)) fun o =>
    triple_bind (goes_write (hc.inShared_window x o) _) fun _ => goes_writeCell hc (.xlStatus x) _

end

/-- The status of a slot that goes through. -/
theorem running_of_goes {s t : State} {n : Fin 21} {op : SlotM Unit} (hq : s.Quiet) (hr : s.status = .running)
    (h : Goes s.cfg op) (e : runSlot n op s = .next t) : t.status = .running := by
  rcases triple_runSlot h ⟨rfl, hq, hr⟩ e with ⟨u, hu, rfl⟩ | ht
  · exact hu.running
  · exact ht

/-! ### The causes of a terminal status (rules R201 to R203, R206) -/

/-- What a step at slot `n` must find in `s` to end with the terminal status `st`. -/
def State.Cause (s : State) (n : Fin 21) : Status → Prop
  | .running | .faulted _ => False
  | .poisoned c =>
    n.val = 4 + c.val ∧ s.shared.get s.cfg.aCtrlCmd[c] = 0 ∧ s.shared.get s.cfg.aCtrlGate[c] = s.cfg.vDiag ∧
      s.shared.get s.cfg.aCtrlOut[c] ≠ s.ctrlCache[c]
  | .refused (.unmappedCommand c v) =>
    n.val = 4 + c.val ∧ v = s.shared.get s.cfg.aCtrlCmd[c] ∧ v ≠ 0 ∧ v ∉ s.cfg.mapBytes c
  | .refused (.creeperSelector k v) =>
    n.val = 9 + k.val ∧ 40 < v.toNat ∧ (v = s.creepTable[k] ∨ s.OnSentinel k ∧ v = s.shared.get s.cfg.aCreepSel[k])
  | .refused (.translatorTable x v) =>
    n.val = 16 + x.val ∧ s.shared.get s.cfg.aXlStatus[x] = s.cfg.vXlArmed ∧ v = s.shared.get s.cfg.aXlTable[x] ∧
      4 < v.toNat

/-- The slots of no controller, creeper or translator know no cause. -/
theorem not_cause_of_plain {s : State} {n : Fin 21} (h4 : n.val < 4 ∨ 7 ≤ n.val) (h9 : n.val < 9 ∨ 13 ≤ n.val)
    (h16 : n.val < 16 ∨ 19 ≤ n.val) (st : Status) : ¬ s.Cause n st := by
  match st with
  | .running | .faulted _ => exact id
  | .poisoned c | .refused (.unmappedCommand c _) | .refused (.creeperSelector c _) | .refused (.translatorTable c _) =>
    rintro ⟨hn, -⟩
    omega

theorem cause_ctrlSlot_iff {s : State} {c : Fin 3} {st : Status} :
    s.Cause (ctrlSlot c) st ↔
      (st = .poisoned c ∧ s.shared.get s.cfg.aCtrlCmd[c] = 0 ∧ s.shared.get s.cfg.aCtrlGate[c] = s.cfg.vDiag ∧
        s.shared.get s.cfg.aCtrlOut[c] ≠ s.ctrlCache[c]) ∨
      (st = .refused (.unmappedCommand c (s.shared.get s.cfg.aCtrlCmd[c])) ∧ s.shared.get s.cfg.aCtrlCmd[c] ≠ 0 ∧
        s.shared.get s.cfg.aCtrlCmd[c] ∉ s.cfg.mapBytes c) := by
  have own {c' : Fin 3} (hn : (ctrlSlot c).val = 4 + c'.val) : c = c' := Fin.ext (Nat.add_left_cancel hn)
  constructor
  · match st with
    | .running | .faulted _ => exact False.elim
    | .poisoned c' =>
      rintro ⟨hn, h⟩
      obtain rfl := own hn
      exact .inl ⟨rfl, h⟩
    | .refused (.unmappedCommand c' v) =>
      rintro ⟨hn, rfl, h⟩
      obtain rfl := own hn
      exact .inr ⟨rfl, h⟩
    | .refused (.creeperSelector k _) | .refused (.translatorTable k _) =>
      rintro ⟨hn, -⟩
      simp only [ctrlSlot] at hn
      omega
  · rintro (⟨rfl, h⟩ | ⟨rfl, h⟩)
    · exact ⟨rfl, h⟩
    · exact ⟨rfl, rfl, h⟩

theorem cause_creepSlot_iff {s : State} {k : Fin 4} {st : Status} :
    s.Cause (creepSlot k) st ↔
      ∃ v, st = .refused (.creeperSelector k v) ∧ 40 < v.toNat ∧
        (v = s.creepTable[k] ∨ s.OnSentinel k ∧ v = s.shared.get s.cfg.aCreepSel[k]) := by
  constructor
  · match st with
    | .running | .faulted _ => exact False.elim
    | .poisoned c | .refused (.unmappedCommand c _) | .refused (.translatorTable c _) =>
      rintro ⟨hn, -⟩
      simp only [creepSlot] at hn
      omega
    | .refused (.creeperSelector k' v) =>
      rintro ⟨hn, h⟩
      obtain rfl : k = k' := Fin.ext (Nat.add_left_cancel hn)
      exact ⟨v, rfl, h⟩
  · rintro ⟨v, rfl, h⟩
    exact ⟨rfl, h⟩

theorem cause_xlatSlot_iff {s : State} {x : Fin 3} {st : Status} :
    s.Cause (xlatSlot x) st ↔
      st = .refused (.translatorTable x (s.shared.get s.cfg.aXlTable[x])) ∧
        s.shared.get s.cfg.aXlStatus[x] = s.cfg.vXlArmed ∧ 4 < (s.shared.get s.cfg.aXlTable[x]).toNat := by
  constructor
  · match st with
    | .running | .faulted _ => exact False.elim
    | .poisoned c | .refused (.unmappedCommand c _) | .refused (.creeperSelector c _) =>
      rintro ⟨hn, -⟩
      simp only [xlatSlot] at hn
      omega
    | .refused (.translatorTable x' v) =>
      rintro ⟨hn, harmed, rfl, h⟩
      obtain rfl : x = x' := Fin.ext (Nat.add_left_cancel hn)
      exact ⟨rfl, harmed, h⟩
  · rintro ⟨rfl, harmed, h⟩
    exact ⟨rfl, harmed, rfl, h⟩

/-! ### The status each slot leaves -/

section
variable {s t : State} (hq : s.Quiet) (hv : s.cfg.Valid) (hr : s.status = .running)

/-- The terminal statuses of slot `n` are exactly those with a cause in `s`. -/
abbrev EndsByCause (s t : State) (n : Fin 21) : Prop := ∀ st, st ≠ .running → (t.status = st ↔ s.Cause n st)

theorem endsByCause_of_running {n : Fin 21} (ht : t.status = .running) (h : ∀ st, ¬ s.Cause n st) : EndsByCause s t n :=
  fun st hst => iff_of_false (fun e => hst (e.symm.trans ht)) (h st)

theorem endsByCause_of_cause {n : Fin 21} (h : s.Cause n t.status) (only : ∀ st, s.Cause n st → st = t.status) :
    EndsByCause s t n :=
  fun st _ => ⟨fun e => e ▸ h, fun hst => (only st hst).symm⟩

include hv

/-- A cursor on the sentinel is one at the end of its table, which then exists (rules R141, R144). -/
theorem onSentinel_iff {k : Fin 4} :
    s.OnSentinel k ↔
      ¬ s.creepTable[k] > 40 ∧ s.creepIdx[k].toNat = (creeperTable s.cfg s.creepTable[k]).length := by
  have hlen : s.cfg.creepTables.length = 41 := hv.tables.1
  have hin : s.creepTable[k].toNat < s.cfg.creepTables.length ↔ ¬ s.creepTable[k] > 40 := by
    rw [hlen]
    bv_omega
  unfold State.OnSentinel creeperTable
  rw [← hin]
  constructor
  · rintro ⟨table, htable, hend⟩
    obtain ⟨hlt, rfl⟩ := List.getElem?_eq_some_iff.mp htable
    exact ⟨hlt, by rw [List.getD_eq_getElem _ _ hlt]; exact hend⟩
  · rintro ⟨hlt, hend⟩
    rw [List.getD_eq_getElem _ _ hlt] at hend
    exact ⟨_, List.getElem?_eq_getElem hlt, hend⟩

include hq

/-- A mapped byte's command completes, whatever its result. -/
theorem completedWith_of_mapped {c : Fin 3} (h : s.shared.get s.cfg.aCtrlCmd[c] ∈ s.cfg.mapBytes c) :
    ∃ r, CompletedWith s c (ctrlSlot c) r
      (runSlot (ctrlSlot c) (afterCommand s.cfg (s.shared.get s.cfg.aCtrlCmd[c]) c) s) := by
  cases c using Fin.lastCases with
  | last =>
    obtain ⟨op, hop⟩ := LevelMap.exists_byteOf h
    refine ⟨s.levelResult op, ?_⟩
    rw [hop]
    exact afterCommand_levelByte hv op ▸ completedWith_of_run hv rfl (run_levelCommand (hq.atSlot 6) hv)
  | cast k =>
    obtain ⟨op, hop⟩ := CreditMap.exists_byteOf (s.cfg.mapBytes_credit k ▸ h)
    obtain ⟨r, -, hrun⟩ := run_creditCommand (k := k) (op := op) (hq.atSlot (ctrlSlot k.castSucc)) hv
    rw [hop, afterCommand_creditByte hv]
    exact ⟨r, completedWith_of_run hv (nextPc_ctrlSlot _) hrun⟩

include hr

theorem endsByCause_controller (c : Fin 3) (e : runSlot (ctrlSlot c) slotOps[ctrlSlot c] s = .next t) :
    EndsByCause s t (ctrlSlot c) := by
  replace e := (runSlot_controller hq hv c).symm.trans e
  by_cases h0 : s.shared.get s.cfg.aCtrlCmd[c] = 0
  · rw [h0, afterCommand_idle] at e
    replace e := (runSlot_diagnostic hq hv c (ctrlSlot c)).symm.trans e
    by_cases hpoison : s.shared.get s.cfg.aCtrlGate[c] = s.cfg.vDiag ∧ s.shared.get s.cfg.aCtrlOut[c] ≠ s.ctrlCache[c]
    · cases (if_pos hpoison).symm.trans e
      refine endsByCause_of_cause (cause_ctrlSlot_iff.mpr (.inl ⟨rfl, h0, hpoison⟩)) fun st h => ?_
      rcases cause_ctrlSlot_iff.mp h with ⟨rfl, -⟩ | ⟨-, hne, -⟩
      · rfl
      · exact absurd h0 hne
    · cases (if_neg hpoison).symm.trans e
      refine endsByCause_of_running hr fun st h => ?_
      rcases cause_ctrlSlot_iff.mp h with ⟨-, -, h⟩ | ⟨-, hne, -⟩
      · exact hpoison h
      · exact hne h0
  · by_cases hmap : s.shared.get s.cfg.aCtrlCmd[c] ∈ s.cfg.mapBytes c
    · obtain ⟨r, m, hnext, -⟩ := completedWith_of_mapped hq hv hmap
      cases hnext.symm.trans e
      refine endsByCause_of_running hr fun st h => ?_
      rcases cause_ctrlSlot_iff.mp h with ⟨-, h, -⟩ | ⟨-, -, h⟩
      · exact h0 h
      · exact h hmap
    · rw [afterCommand_unmapped h0 c hmap, runSlot_raise] at e
      cases e
      refine endsByCause_of_cause (cause_ctrlSlot_iff.mpr (.inr ⟨rfl, h0, hmap⟩)) fun st h => ?_
      rcases cause_ctrlSlot_iff.mp h with ⟨-, h, -⟩ | ⟨rfl, -⟩
      · exact absurd h h0
      · rfl

omit hq hv hr in
/-- What a creeper's slot goes on with after it has looked at its registers (rule R142). -/
theorem runSlot_creeper (k : Fin 4) (n : Fin 21) :
    runSlot n (creeper k) s = runSlot n
      (if s.creepTable[k] > 40 then refuseLatched k s.creepTable[k]
        else if s.creepIdx[k].toNat = (creeperTable s.cfg s.creepTable[k]).length then creeperBoundary k
        else emitCreeper k s.creepTable[k] s.creepIdx[k]) s := rfl

omit hv hr in
/-- A latched selector above 40 stops the slot (rule R145). -/
theorem runSlot_refuseLatched (k : Fin 4) (v : Byte) (n : Fin 21) :
    runSlot n (refuseLatched k v) s = .next { s with pc := .slot n, status := .refused (.creeperSelector k v) } := by
  simp only [runSlot, refuseLatched, run_bind, run_coldResetPoint_quiet { s with pc := .slot n } hq.1, run_raise]

omit hr in
theorem runSlot_creeperBoundary (k : Fin 4) (n : Fin 21) :
    runSlot n (creeperBoundary k) s = runSlot n (latchSelector k (s.shared.get s.cfg.aCreepSel[k])) s :=
  runSlot_read hq (addr := (·.aCreepSel[k])) (hv.inShared_addr (.creepSel k)) n fun _ v => latchSelector k v

theorem endsByCause_creeper (k : Fin 4) (e : runSlot (creepSlot k) (creeper k) s = .next t) :
    EndsByCause s t (creepSlot k) := by
  rw [runSlot_creeper] at e
  by_cases hlatched : s.creepTable[k] > 40
  · rw [if_pos hlatched] at e
    cases (runSlot_refuseLatched hq k _ _).symm.trans e
    refine endsByCause_of_cause (cause_creepSlot_iff.mpr ⟨_, rfl, hlatched, .inl rfl⟩) fun st h => ?_
    obtain ⟨v, rfl, -, rfl | ⟨hend, -⟩⟩ := cause_creepSlot_iff.mp h
    · rfl
    · exact absurd hlatched ((onSentinel_iff hv).mp hend).1
  rw [if_neg hlatched] at e
  by_cases hend : s.creepIdx[k].toNat = (creeperTable s.cfg s.creepTable[k]).length
  · have hs : s.OnSentinel k := (onSentinel_iff hv).mpr ⟨hlatched, hend⟩
    rw [if_pos hend, runSlot_creeperBoundary hq hv] at e
    by_cases hsel : s.shared.get s.cfg.aCreepSel[k] > 40
    · cases (runSlot_latchSelector_above hsel (creepSlot k) s).symm.trans e
      refine endsByCause_of_cause (cause_creepSlot_iff.mpr ⟨_, rfl, hsel, .inr ⟨hs, rfl⟩⟩) fun st h => ?_
      obtain ⟨v, rfl, hbig, rfl | ⟨-, rfl⟩⟩ := cause_creepSlot_iff.mp h
      · exact absurd hbig hlatched
      · rfl
    · refine endsByCause_of_running (running_of_goes hq hr (goes_latchSelector hv hsel) e) fun st h => ?_
      obtain ⟨v, -, hbig, rfl | ⟨-, rfl⟩⟩ := cause_creepSlot_iff.mp h
      · exact hlatched hbig
      · exact hsel hbig
  · rw [if_neg hend] at e
    refine endsByCause_of_running (running_of_goes hq hr (goes_emitCreeper hv k _ _) e) fun st h => ?_
    obtain ⟨v, -, hbig, rfl | ⟨hs, -⟩⟩ := cause_creepSlot_iff.mp h
    · exact hlatched hbig
    · exact hend ((onSentinel_iff hv).mp hs).2

theorem endsByCause_translator (x : Fin 3) (e : runSlot (xlatSlot x) (translator x) s = .next t) :
    EndsByCause s t (xlatSlot x) := by
  replace e := (runSlot_read hq (addr := (·.aXlStatus[x])) (hv.inShared_addr (.xlStatus x)) (xlatSlot x)
    fun cfg v => if v = cfg.vXlArmed then fire x else pure ()).symm.trans e
  by_cases harmed : s.shared.get s.cfg.aXlStatus[x] = s.cfg.vXlArmed
  · rw [if_pos harmed] at e
    replace e := (runSlot_read hq (addr := (·.aXlTable[x])) (hv.inShared_addr (.xlTable x)) (xlatSlot x)
      fun _ n => if n > 4 then raise (.refused (.translatorTable x n)) else copyByte x n).symm.trans e
    by_cases htable : s.shared.get s.cfg.aXlTable[x] > 4
    · rw [if_pos htable, runSlot_raise] at e
      cases e
      exact endsByCause_of_cause (cause_xlatSlot_iff.mpr ⟨rfl, harmed, htable⟩) fun st h => (cause_xlatSlot_iff.mp h).1
    · rw [if_neg htable] at e
      refine endsByCause_of_running (running_of_goes hq hr (goes_copyByte hv x _) e) fun st h => ?_
      obtain ⟨-, -, h⟩ := cause_xlatSlot_iff.mp h
      exact htable h
  · rw [if_neg harmed, runSlot_pure] at e
    cases e
    refine endsByCause_of_running hr fun st h => ?_
    obtain ⟨-, h, -⟩ := cause_xlatSlot_iff.mp h
    exact harmed h

omit hv in
/-- A slot of no controller, creeper or translator that goes through. -/
theorem endsByCause_plain {n : Fin 21} {op : SlotM Unit} (h : Goes s.cfg op) (e : runSlot n op s = .next t)
    (h4 : n.val < 4 ∨ 7 ≤ n.val := by decide) (h9 : n.val < 9 ∨ 13 ≤ n.val := by decide)
    (h16 : n.val < 16 ∨ 19 ≤ n.val := by decide) : EndsByCause s t n :=
  endsByCause_of_running (running_of_goes hq hr h e) (not_cause_of_plain h4 h9 h16)

/-- Every slot ends the CORE exactly by a cause it finds. -/
theorem endsByCause_slot {n : Fin 21} (e : runSlot n slotOps[n] s = .next t) : EndsByCause s t n := by
  fin_cases n
  · exact endsByCause_plain hq hr (goes_irqOp hv) e
  · exact endsByCause_plain hq hr (goes_inputRelayOp hv) e
  · obtain ⟨_, _, _, hcredit, -⟩ := creditSlot s hq hv
    cases hcredit.symm.trans e
    exact endsByCause_of_running hr (not_cause_of_plain (by decide) (by decide) (by decide))
  · exact endsByCause_plain hq hr (goes_lockOp hv) e
  · exact endsByCause_controller hq hv hr 0 e
  · exact endsByCause_controller hq hv hr 1 e
  · exact endsByCause_controller hq hv hr 2 e
  · exact endsByCause_plain hq hr (goes_beastieRelay hv 0) e
  · exact endsByCause_plain hq hr (goes_beastieRelay hv 1) e
  · exact endsByCause_creeper hq hv hr 0 e
  · exact endsByCause_creeper hq hv hr 1 e
  · exact endsByCause_creeper hq hv hr 2 e
  · exact endsByCause_creeper hq hv hr 3 e
  · exact endsByCause_plain hq hr (goes_clockOp hv) e
  · exact endsByCause_plain hq hr (goes_mischiefOp hv) e
  · exact endsByCause_plain hq hr (goes_extendOp hv) e
  · exact endsByCause_translator hq hv hr 0 e
  · exact endsByCause_translator hq hv hr 1 e
  · exact endsByCause_translator hq hv hr 2 e
  · exact endsByCause_plain hq hr (goes_resetWatcherOp hv) e
  · exact endsByCause_plain hq hr (goes_delayOp hv) e

end

/-- Settles O52: a step inside a tick is its slot, and the slot's causes are the list's. -/
theorem terminalCauses : Obligations.TerminalCauses := by
  intro s t n hq hv hr hp e
  have h := endsByCause_slot hq hv hr (step_slot hr hp ▸ e)
  exact ⟨fun c => h (.poisoned c) nofun, fun a => (h (.faulted a) nofun).not.mpr id,
    fun c v => h (.refused (.unmappedCommand c v)) nofun, fun k v => h (.refused (.creeperSelector k v)) nofun,
    fun x v => h (.refused (.translatorTable x v)) nofun⟩

end Sys2Proof.Machine

/-!
PROOFS. The statements about the creepers. In a quiet state a creeper's slot has three courses: it refuses the selector it
finds latched, it latches the selector cell on the sentinel, or it emits where the cursor stands. Over whole cycles the
creeper's place in its cycle (`State.AboutToEmit`) goes round once in every `table.length` ticks, so the outputs are the
table's entries over and over.
-/

namespace Sys2Proof.Machine

/-! ### The creepers' slots (rules R60, R142) -/

/-- The slot of creeper `k` is its operation. -/
theorem exec_creeperSlot {k : Fin 4} {i : Instr} {n : Fin 21} (h : (k, i, n) ∈ creeperSlots) (s : State) :
    n = creepSlot k ∧ exec i s = runSlot (creepSlot k) (creeper k) s := by
  simp only [creeperSlots, List.mem_cons, Prod.mk.injEq, List.not_mem_nil, or_false] at h
  rcases h with ⟨rfl, rfl, rfl⟩ | ⟨rfl, rfl, rfl⟩ | ⟨rfl, rfl, rfl⟩ | ⟨rfl, rfl, rfl⟩ <;> exact ⟨rfl, rfl⟩

/-- No creeper's slot is the tick's last. -/
theorem nextPc_creepSlot (k : Fin 4) : nextPc (creepSlot k) = .slot (creepSlot k + 1) := by
  fin_cases k <;> rfl

/-! ### The tables (rule R141) -/

theorem creeperTable_of_getElem? {c : Cfg} {n : Byte} {table : List Byte} (h : c.creepTables[n.toNat]? = some table) :
    creeperTable c n = table := by
  rw [creeperTable, List.getD_eq_getElem?_getD, h, Option.getD_some]

theorem creeperByte_of_getElem? {c : Cfg} {n v : Byte} {j : Nat} {table : List Byte}
    (h : c.creepTables[n.toNat]? = some table) (hv : table[j]? = some v) : creeperByte c n j = v := by
  rw [creeperByte, creeperTable_of_getElem? h, romByte, hv, Option.getD_some]

/-- A valid configuration has tables for the selectors up to 40 only (rules R141, R145). -/
theorem not_above_of_table {c : Cfg} (hc : c.Valid) {n : Byte} {table : List Byte}
    (h : c.creepTables[n.toNat]? = some table) : ¬ n > 40 := by
  obtain ⟨hlt, -⟩ := List.getElem?_eq_some_iff.mp h
  rw [hc.tables.1] at hlt
  bv_omega

/-! ### The slot in a quiet state -/

/-- Creeper `k`'s slot has put out `v`, the entry at cursor `j`, and has moved on (rules R142, R143). -/
def State.emitted (s : State) (k : Fin 4) (j v : Byte) : State :=
  { s with
    pc := .slot (creepSlot k + 1), creepIdx := s.creepIdx.set k (j + 1), shared := s.shared.put s.cfg.aCreepOut[k] v }

theorem emitted_output (s : State) (k : Fin 4) (j v : Byte) : (s.emitted k j v).shared.get s.cfg.aCreepOut[k] = v := by
  rw [State.emitted, Memory.get_put, if_pos rfl]

theorem emitted_frame (s : State) (k : Fin 4) (j v : Byte) {a : Nat} (h : a ≠ s.cfg.aCreepOut[k]) :
    (s.emitted k j v).shared.get a = s.shared.get a := by
  rw [State.emitted, Memory.get_put, if_neg h]

theorem emitted_cursor (s : State) (k : Fin 4) (j v : Byte) : (s.emitted k j v).creepIdx[k] = j + 1 :=
  Vector.getElem_set_self k.isLt

/-- Creeper `k` has sampled its selector cell and latched the byte there (rule R144). -/
def State.sampled (s : State) (k : Fin 4) : State :=
  { s with creepTable := s.creepTable.set k (s.shared.get s.cfg.aCreepSel[k]) }

theorem sampled_creepTable (s : State) (k : Fin 4) : (s.sampled k).creepTable[k] = s.shared.get s.cfg.aCreepSel[k] :=
  Vector.getElem_set_self k.isLt

section
variable {s : State} (hq : s.Quiet) (hv : s.cfg.Valid)

/-- A sampled selector up to 40 stays latched, and the slot emits its table's entry 0 (rule R144). -/
theorem runSlot_latchSelector_below {k : Fin 4} (h : ¬ s.shared.get s.cfg.aCreepSel[k] > 40) (n : Fin 21) :
    runSlot n (latchSelector k (s.shared.get s.cfg.aCreepSel[k])) s =
      runSlot n (emitCreeper k (s.shared.get s.cfg.aCreepSel[k]) 0) (s.sampled k) := by
  simp only [runSlot, latchSelector, run_bind, run_update, if_neg h]
  rfl

include hq hv

theorem runSlot_emitCreeper (k : Fin 4) (n j : Byte) :
    runSlot (creepSlot k) (emitCreeper k n j) s = .next (s.emitted k j (creeperByte s.cfg n j.toNat)) := by
  have hwrite := run_memWrite_quiet { s with pc := .slot (creepSlot k) } s.cfg.aCreepOut[k] (creeperByte s.cfg n j.toNat)
    hq.1 hq.2 (hv.inShared_addr (.creepOut k))
  simp only [runSlot, emitCreeper, run_bind, run_reg, hwrite, run_update, nextPc_creepSlot]
  rfl

/-- On the sentinel the slot goes on with the byte in the selector cell (rule R144). -/
theorem runSlot_creeper_onSentinel {k : Fin 4} (h : s.OnSentinel k) (n : Fin 21) :
    runSlot n (creeper k) s = runSlot n (latchSelector k (s.shared.get s.cfg.aCreepSel[k])) s := by
  obtain ⟨hlatched, hend⟩ := (onSentinel_iff hv).mp h
  rw [runSlot_creeper, if_neg hlatched, if_pos hend, runSlot_creeperBoundary hq hv]

/-- Inside a cycle the slot emits the latched table's entry at the cursor. -/
theorem runSlot_creeper_inside {k : Fin 4} {table : List Byte} {v : Byte}
    (htable : s.cfg.creepTables[s.creepTable[k].toNat]? = some table) (hentry : table[s.creepIdx[k].toNat]? = some v) :
    runSlot (creepSlot k) (creeper k) s = .next (s.emitted k s.creepIdx[k] v) := by
  obtain ⟨hlt, -⟩ := List.getElem?_eq_some_iff.mp hentry
  have hinside : s.creepIdx[k].toNat ≠ (creeperTable s.cfg s.creepTable[k]).length := by
    rw [creeperTable_of_getElem? htable]
    exact hlt.ne
  rw [runSlot_creeper, if_neg (not_above_of_table hv htable), if_neg hinside, runSlot_emitCreeper hq hv,
    creeperByte_of_getElem? htable hentry]

/-- At the cycle boundary the slot latches the selector and emits entry 0 of the new table. -/
theorem runSlot_creeper_boundary {k : Fin 4} {next : List Byte} {v : Byte} (hend : s.OnSentinel k)
    (hnext : s.cfg.creepTables[(s.shared.get s.cfg.aCreepSel[k]).toNat]? = some next) (hentry : next[0]? = some v) :
    runSlot (creepSlot k) (creeper k) s = .next ((s.sampled k).emitted k 0 v) := by
  have hemit := runSlot_emitCreeper (s := s.sampled k) hq hv k (s.shared.get s.cfg.aCreepSel[k]) 0
  have hbyte : creeperByte (s.sampled k).cfg (s.shared.get s.cfg.aCreepSel[k]) (0 : Byte).toNat = v :=
    creeperByte_of_getElem? hnext hentry
  rw [runSlot_creeper_onSentinel hq hv hend, runSlot_latchSelector_below (not_above_of_table hv hnext), hemit, hbyte]

end

/-- Settles O28: the slot inside a cycle. -/
theorem creeperEmits : Obligations.CreeperEmits := by
  intro s k i n table v hq hv hslot htable hentry
  obtain ⟨rfl, hexec⟩ := exec_creeperSlot hslot s
  exact ⟨_, hexec.trans (runSlot_creeper_inside hq hv htable hentry), emitted_output s k s.creepIdx[k] v,
    fun _ h => emitted_frame s k s.creepIdx[k] v h⟩

/-- Settles O30: a latched selector stops the slot before any access, a sampled one once it is latched. -/
theorem creeperSelectorRefused : Obligations.CreeperSelectorRefused := by
  intro s k i n hq hv hslot
  obtain ⟨rfl, hexec⟩ := exec_creeperSlot hslot s
  refine ⟨fun hlatched => ?_, fun table htable hend habove => ?_⟩
  · rw [hexec, runSlot_creeper, if_pos (show s.creepTable[k] > 40 from hlatched), runSlot_refuseLatched hq]
  · rw [hexec, runSlot_creeper_onSentinel hq hv ⟨table, htable, hend⟩, runSlot_latchSelector_above habove]

/-! ### Whole cycles (rule R147) -/

/-- Creeper `k` is about to emit entry `r` of table `n`: its cursor stands there, or for entry 0 on a sentinel, where the slot
will latch `n`. -/
def State.AboutToEmit (s : State) (k : Fin 4) (n : Byte) (r : Nat) : Prop :=
  r = 0 ∧ s.OnSentinel k ∨ s.creepTable[k] = n ∧ s.creepIdx[k].toNat = r

theorem aboutToEmit_of_cycleBegins {s : State} {k : Fin 4} {n : Byte} (h : s.CycleBegins k n) : s.AboutToEmit k n 0 := by
  rcases h with hend | ⟨hlatched, hstart⟩
  · exact .inl ⟨rfl, hend⟩
  · exact .inr ⟨hlatched, congrArg BitVec.toNat hstart⟩

/-- Behind entry `r` the next one is due, and behind the last one entry 0 (rules R143, R144). -/
theorem aboutToEmit_next {s : State} {k : Fin 4} {n : Byte} {table : List Byte} {r : Nat}
    (htable : s.cfg.creepTables[n.toNat]? = some table) (hr : r < table.length) (hlatched : s.creepTable[k] = n)
    (hcursor : s.creepIdx[k].toNat = r + 1) : s.AboutToEmit k n ((r + 1) % table.length) := by
  have hle : r + 1 ≤ table.length := hr
  rcases hle.eq_or_lt with hlast | hmore
  · exact .inl ⟨by rw [hlast, Nat.mod_self], table, by rw [hlatched, htable], hcursor.trans hlast⟩
  · exact .inr ⟨hlatched, by rw [Nat.mod_eq_of_lt hmore, hcursor]⟩

/-- One tick of a cycle of table `n`: entry `r` goes out, and the cursor stands behind it in table `n`. -/
theorem emits_of_aboutToEmit {s t : State} {k : Fin 4} {n : Byte} {table : List Byte} {r : Nat} (hq : s.Quiet)
    (hv : s.cfg.Valid) (hsel : s.shared.get s.cfg.aCreepSel[k] = n) (htable : s.cfg.creepTables[n.toNat]? = some table)
    (hr : r < table.length) (hdue : s.AboutToEmit k n r) (hrun : runSlot (creepSlot k) (creeper k) s = .next t) :
    t.shared.get s.cfg.aCreepOut[k] = table[r] ∧ t.creepTable[k] = n ∧ t.creepIdx[k].toNat = r + 1 := by
  have hshort : table.length ≤ 255 := (hv.tables.2.1 _ (List.mem_of_getElem? htable)).2.1
  rcases hdue with ⟨rfl, hend⟩ | ⟨rfl, rfl⟩
  · subst hsel
    cases (runSlot_creeper_boundary hq hv hend htable (List.getElem?_eq_getElem hr)).symm.trans hrun
    exact ⟨emitted_output _ k 0 _, sampled_creepTable s k, congrArg BitVec.toNat (emitted_cursor _ k 0 _)⟩
  · cases (runSlot_creeper_inside hq hv htable (List.getElem?_eq_getElem hr)).symm.trans hrun
    refine ⟨emitted_output _ k _ _, rfl, ?_⟩
    rw [emitted_cursor]
    bv_omega

section
variable {k : Fin 4} {i : Instr} {slot : Fin 21} {n : Byte} {table : List Byte} {ticks : Nat} {before after : Nat → State}
  (hv : (before 0).cfg.Valid) (hslot : (k, i, slot) ∈ creeperSlots)
  (htable : (before 0).cfg.creepTables[n.toNat]? = some table) (hpos : 0 < table.length)
  (hticks : CreeperTicks k i n ticks before after)
include hv hslot htable hpos hticks

/-- A tick of such a run, in terms of the entry that is due. -/
theorem CreeperTicks.emits {j : Nat} (hj : j < ticks) (hdue : (before j).AboutToEmit k n (j % table.length)) :
    (after j).shared.get (before 0).cfg.aCreepOut[k] = table[j % table.length]'(Nat.mod_lt j hpos) ∧
      (after j).creepTable[k] = n ∧ (after j).creepIdx[k].toNat = j % table.length + 1 := by
  have hcfg := hticks.cfg j hj
  have hrun := (exec_creeperSlot hslot (before j)).2.symm.trans (hticks.runs j hj)
  rw [← hcfg] at hv htable ⊢
  exact emits_of_aboutToEmit (hticks.quiet j hj) hv (hcfg ▸ hticks.selector j hj) htable (Nat.mod_lt j hpos) hdue hrun

/-- The creeper's place in its cycle goes with the count of the ticks. -/
theorem CreeperTicks.aboutToEmit (hbegin : (before 0).CycleBegins k n) {j : Nat} (hj : j < ticks) :
    (before j).AboutToEmit k n (j % table.length) := by
  induction j with
  | zero => exact (Nat.zero_mod table.length).symm ▸ aboutToEmit_of_cycleBegins hbegin
  | succ j ih =>
    have hprev : j < ticks := Nat.lt_of_succ_lt hj
    obtain ⟨-, hlatched, hcursor⟩ := hticks.emits hv hslot htable hpos hprev (ih hprev)
    obtain ⟨hkeptTable, hkeptIdx⟩ := hticks.kept j hj
    rw [← hticks.cfg (j + 1) hj] at htable
    rw [← Nat.mod_add_mod]
    exact aboutToEmit_next htable (Nat.mod_lt j hpos) (hkeptTable.trans hlatched) (hkeptIdx ▸ hcursor)

end

/-- A sum over whole rounds through a list. -/
theorem sum_range_rounds (l : List Nat) (rounds : Nat) :
    ((List.range (rounds * l.length)).map fun j => l.getD (j % l.length) 0).sum = rounds * l.sum := by
  induction rounds with
  | zero => simp
  | succ rounds ih =>
    have hround : ((List.range l.length).map fun r => l.getD ((rounds * l.length + r) % l.length) 0) = l := by
      refine List.ext_getElem (by simp) fun r hr hr' => ?_
      simp [Nat.mod_eq_of_lt hr', hr']
    rw [Nat.succ_mul, List.range_add, List.map_append, List.sum_append, ih, List.map_map, Nat.succ_mul]
    exact congrArg (rounds * l.sum + ·) (congrArg List.sum hround)

/-- The mean over whole cycles: each cycle puts out the table once. -/
theorem CreeperTicks.mean {k : Fin 4} {i : Instr} {slot : Fin 21} {n : Byte} {table : List Byte} {cycles : Nat}
    {before after : Nat → State} (hv : (before 0).cfg.Valid) (hmean : (before 0).cfg.CreeperMeanExact)
    (hslot : (k, i, slot) ∈ creeperSlots) (htable : (before 0).cfg.creepTables[n.toNat]? = some table)
    (hbegin : (before 0).CycleBegins k n) (hticks : CreeperTicks k i n (cycles * table.length) before after) :
    10 * ((List.range (cycles * table.length)).map fun j =>
      ((after j).shared.get (before 0).cfg.aCreepOut[k]).toNat).sum = n.toNat * (cycles * table.length) := by
  obtain ⟨hlt, hget⟩ := List.getElem?_eq_some_iff.mp htable
  have hpos : 0 < table.length := List.length_pos_iff.mpr (hv.tables.2.1 _ (List.mem_of_getElem? htable)).1
  have houtputs : ((List.range (cycles * table.length)).map fun j =>
      ((after j).shared.get (before 0).cfg.aCreepOut[k]).toNat) =
      (List.range (cycles * table.length)).map fun j => (table.map BitVec.toNat).getD (j % table.length) 0 := by
    refine List.map_congr_left fun j hj => ?_
    have hj : j < cycles * table.length := List.mem_range.mp hj
    obtain ⟨hout, -⟩ := hticks.emits hv hslot htable hpos hj (hticks.aboutToEmit hv hslot htable hpos hbegin hj)
    rw [hout, List.getD_eq_getElem _ _ (by simpa using Nat.mod_lt j hpos), List.getElem_map]
  have hrounds := sum_range_rounds (table.map BitVec.toNat) cycles
  rw [List.length_map] at hrounds
  have htenth : 10 * (table.map BitVec.toNat).sum = n.toNat * table.length := hget ▸ hmean n.toNat hlt
  calc 10 * ((List.range (cycles * table.length)).map fun j =>
        ((after j).shared.get (before 0).cfg.aCreepOut[k]).toNat).sum
      = cycles * (10 * (table.map BitVec.toNat).sum) := by rw [houtputs, hrounds, Nat.mul_left_comm]
    _ = n.toNat * (cycles * table.length) := by rw [htenth, Nat.mul_left_comm]

end Sys2Proof.Machine

namespace Sys2Proof

open Machine

/-- Settles O29: the slot on the sentinel, and its outputs over whole cycles. -/
theorem creeperBoundary : Obligations.CreeperBoundary := by
  refine ⟨fun s k i n table next v hq hv hslot htable hend hnext hentry => ?_,
    fun cfg k i slot n table cycles ticks before after hv hmean hslot htable hcount hcfg hbegin hticks => ?_⟩
  · obtain ⟨rfl, hexec⟩ := exec_creeperSlot hslot s
    exact ⟨_, hexec.trans (runSlot_creeper_boundary hq hv ⟨table, htable, hend⟩ hnext hentry),
      emitted_output (s.sampled k) k 0 v, fun _ h => emitted_frame (s.sampled k) k 0 v h⟩
  · subst hcfg hcount
    exact hticks.mean hv hmean hslot htable hbegin

end Sys2Proof

/-!
PROOFS. The statements about the beastie relays in a quiet state. The cells are followed as the function they read as
(`Reading`); a turn of the sweep moves the registers and the cells as `State.sweptTo` and `State.sweptBytes` say, and the sweep
ends with the beasties it reaches (`State.reached`), the kill cells written when the last of them collides.
-/

namespace Sys2Proof

theorem PlainCell.forall_outsOf {p : Fin 2} {i : Fin 7} {P : PlainCell → Prop} :
    (∀ x ∈ PlainCell.outsOf p i, P x) ↔ P (.oVCode p i) ∧ P (.oVDist p i) ∧ P (.oHCode p i) ∧ P (.oHDist p i) := by
  simp [PlainCell.outsOf]

/-- A kill cell is no output cell. -/
theorem Cfg.Valid.out_ne_kill {c : Cfg} (h : c.Valid) {p : Fin 2} {i : Fin 7} {x : PlainCell}
    (hx : x ∈ PlainCell.outsOf p i) : c.addr x ≠ c.aKillReq[p] ∧ c.addr x ≠ c.aKillIdx[p] := by
  constructor <;> intro e
  · rw [h.addr_inj (y := .killReq p) e] at hx
    simp [PlainCell.outsOf] at hx
  · rw [h.addr_inj (y := .killIdx p) e] at hx
    simp [PlainCell.outsOf] at hx

end Sys2Proof

namespace Sys2Proof.Machine

/-! ### Quiet states by what their cells read as -/

/-- The states whose cells read as `f`, and in which all else is as in `base`. -/
inductive Reading (base : State) (f : Nat → Byte) : State → Prop
  | intro (m : Memory) (h : ∀ b, m.get b = f b) : Reading base f { base with shared := m }

theorem reading_self (s : State) : Reading s s.shared.get s := .intro s.shared fun _ => rfl

section
variable {α β : Type} {base : State} {f : Nat → Byte}

/-- A register write; the default proof is for a record update of a register. -/
theorem reading_update {g : State → State} (after : State)
    (hg : ∀ m, g { base with shared := m } = { after with shared := m } := by intros; rfl) :
    Completes (Reading base f) (update g) fun _ => Reading after f := by
  rintro _ ⟨m, h⟩
  rw [run_update, hg]
  exact .intro m h

/-- A register read; the default proof is for every field but the memory. -/
theorem reading_reg {g : State → α} {k : α → SlotM β} {T : β → State → Prop}
    (h : Completes (Reading base f) (k (g base)) T) (hg : ∀ m, g { base with shared := m } = g base := by intros; rfl) :
    Completes (Reading base f) (reg g >>= k) T := by
  rintro _ ⟨m, hm⟩
  rw [run_bind, run_reg, hg]
  exact h _ (.intro m hm)

variable (hq : base.Quiet) (hv : base.cfg.Valid)
include hq hv

theorem reading_readCell {x : PlainCell} {b : Byte} (hf : f (base.cfg.addr x) = b) {k : Byte → SlotM β}
    {T : β → State → Prop} (h : Completes (Reading base f) (k b) T) :
    Completes (Reading base f) (memRead (base.cfg.addr x) >>= k) T := by
  rintro _ ⟨m, hm⟩
  have hread := run_memRead_quiet { base with shared := m } (base.cfg.addr x) hq.1 hq.2 (hv.inShared_addr x)
  have hb : m.get (base.cfg.addr x) = b := (hm _).trans hf
  rw [run_bind, hread]
  exact hb ▸ h _ (.intro m hm)

/-- A write of `val x` to the cell `x`. -/
theorem reading_writeCell (val : PlainCell → Byte) (x : PlainCell) :
    Completes (Reading base f) (memWrite (base.cfg.addr x) (val x)) fun _ => Reading base (storedAt base.cfg val [x] f) := by
  rintro _ ⟨m, hm⟩
  rw [run_memWrite_quiet { base with shared := m } (base.cfg.addr x) (val x) hq.1 hq.2 (hv.inShared_addr x)]
  refine .intro _ fun b => ?_
  rw [Memory.get_put, hm]
  exact (Function.update_apply f _ _ b).symm

end

/-! ### The kill request (rule R159) -/

/-- The byte that a kill request writes to a kill cell. -/
def State.killByte (s : State) : PlainCell → Byte
  | .killReq _ => s.cfg.vKill
  | .killIdx _ => s.beastIdx.setWidth 8
  | _ => 0

/-- What the cells read as after player `p`'s kill request. -/
def State.killedBytes (s : State) (p : Fin 2) (f : Nat → Byte) : Nat → Byte :=
  storedAt s.cfg s.killByte [.killReq p, .killIdx p] f

section
variable {s : State}

theorem killedBytes_addr (hv : s.cfg.Valid) {p : Fin 2} {x : PlainCell} (h : x ∈ [PlainCell.killReq p, .killIdx p])
    (f : Nat → Byte) : s.killedBytes p f (s.cfg.addr x) = s.killByte x := storedAt_of_mem hv h

theorem killedBytes_of_ne {p : Fin 2} {b : Nat} (hreq : b ≠ s.cfg.aKillReq[p]) (hidx : b ≠ s.cfg.aKillIdx[p])
    (f : Nat → Byte) : s.killedBytes p f b = f b := by
  refine storedAt_of_not_mem fun x hx => ?_
  simp only [List.mem_cons, List.not_mem_nil, or_false] at hx
  rcases hx with rfl | rfl
  exacts [hreq, hidx]

variable (hq : s.Quiet) (hv : s.cfg.Valid) {p : Fin 2} {f : Nat → Byte}
include hq hv

/-- The liveness bit is still set: the request is made. -/
theorem reading_killRequest_live (hlive : Alive s.cfg (f (s.cfg.addr (.pLive p)))) :
    Completes (Reading s f) (killRequest p) fun done t => done = true ∧ Reading s (s.killedBytes p f) t := by
  refine reading_reg <| reading_readCell hq hv (x := .pLive p) rfl ?_
  refine triple_ite (fun _ => ?_) fun hdead => absurd hlive hdead
  refine triple_bind (reading_writeCell hq hv s.killByte (.killReq p)) fun _ => reading_reg ?_
  exact triple_bind (reading_writeCell hq hv s.killByte (.killIdx p)) fun _ => triple_pure _ fun _ h => ⟨rfl, h⟩

end

/-! ### A beastie's turn (rules R153 to R160) -/

/-- A turn's answer and the state it leaves: in a collision the kill cells are written too. -/
def TurnEnds (collides : Prop) (base : State) (p : Fin 2) (f : Nat → Byte) (done : Bool) (t : State) : Prop :=
  (collides ∧ done = true ∧ Reading base (base.killedBytes p f) t) ∨ (¬ collides ∧ done = false ∧ Reading base f t)

section
variable {s : State} (hq : s.Quiet) (hv : s.cfg.Valid) {p : Fin 2} {i : Fin 7} {y : Byte} {j : BitVec 3} {f : Nat → Byte}

theorem reading_countYOverlap (hl : s.BeastieLive i) :
    Completes (Reading (s.sweeping p y j) f) (countYOverlap (s.freshByte (.oVDist p i))) fun _ =>
      Reading (s.sweeping p (s.countedAt p y i) j) f := by
  have hiff : Overlaps s.cfg (s.freshByte (.oVDist p i)) ↔ s.OverlapsY p i :=
    (overlaps_compareCoord _ _ _).trans ⟨fun h => ⟨hl, h⟩, And.right⟩
  by_cases ho : s.OverlapsY p i
  · rw [State.countedAt, if_pos ho]
    exact reading_update (s.sweeping p (y + 1) j) fun _ => if_pos (hiff.mpr ho)
  · rw [State.countedAt, if_neg ho]
    exact reading_update (s.sweeping p y j) fun _ => if_neg (mt hiff.mp ho)

include hq hv

theorem reading_verticalResult (hl : s.BeastieLive i) (hf : f (s.cfg.addr (.bY i)) = s.beastieY i) :
    Completes (Reading (s.sweeping p y j) f) (verticalResult p i) fun _ =>
      Reading (s.sweeping p (s.countedAt p y i) j) (storedAt s.cfg s.freshByte [.oVCode p i, .oVDist p i] f) :=
  reading_reg <| reading_readCell (base := s.sweeping p y j) hq hv (x := .bY i) hf <| reading_reg <|
    triple_bind (reading_writeCell (base := s.sweeping p y j) hq hv s.freshByte (.oVCode p i)) fun _ =>
      triple_bind (reading_writeCell (base := s.sweeping p y j) hq hv s.freshByte (.oVDist p i)) fun _ =>
        reading_countYOverlap hl

theorem reading_horizontalResult (hf : f (s.cfg.addr (.bX i)) = s.beastieX i) :
    Completes (Reading (s.sweeping p y j) f) (horizontalResult p i) fun d t =>
      d = s.freshByte (.oHDist p i) ∧
      Reading (s.sweeping p y j) (storedAt s.cfg s.freshByte [.oHCode p i, .oHDist p i] f) t :=
  reading_reg <| reading_readCell (base := s.sweeping p y j) hq hv (x := .bX i) hf <| reading_reg <|
    triple_bind (reading_writeCell (base := s.sweeping p y j) hq hv s.freshByte (.oHCode p i)) fun _ =>
      triple_bind (reading_writeCell (base := s.sweeping p y j) hq hv s.freshByte (.oHDist p i)) fun _ =>
        triple_pure _ fun _ h => ⟨rfl, h⟩

/-- A live beastie: it collides when it overlaps horizontally and any vertical overlap has been counted (rule R158). -/
theorem reading_liveBeastie (hlive : s.BeastieLive i) (hY : f (s.cfg.addr (.bY i)) = s.beastieY i)
    (hX : f (s.cfg.addr (.bX i)) = s.beastieX i) (hL : Alive s.cfg (f (s.cfg.addr (.pLive p)))) :
    Completes (Reading (s.sweeping p y j) f) (liveBeastie p i)
      (TurnEnds (s.OverlapsX p i ∧ s.countedAt p y i ≠ 0) (s.sweeping p (s.countedAt p y i) j) p
        (storedAt s.cfg s.freshByte (PlainCell.outsOf p i) f)) := by
  have hX' : storedAt s.cfg s.freshByte [.oVCode p i, .oVDist p i] f (s.cfg.addr (.bX i)) = s.beastieX i := by
    rw [storedAt_of_not_mem (by simp [hv]), hX]
  have hL' : Alive s.cfg (storedAt s.cfg s.freshByte (PlainCell.outsOf p i) f (s.cfg.addr (.pLive p))) := by
    rwa [storedAt_of_not_mem (by simp [hv, PlainCell.outsOf])]
  have hiff : (s.sweeping p (s.countedAt p y i) j).Collides (s.freshByte (.oHDist p i)) ↔
      s.OverlapsX p i ∧ s.countedAt p y i ≠ 0 :=
    and_congr_left' ((overlaps_compareCoord _ _ _).trans ⟨fun h => ⟨hlive, h⟩, And.right⟩)
  refine triple_bind (reading_verticalResult hq hv hlive hY) fun _ => ?_
  refine triple_bind (reading_horizontalResult hq hv hX') fun d => ?_
  rintro t ⟨rfl, ht⟩
  revert t
  refine reading_reg (triple_ite (fun hit => ?_) fun hmiss => ?_)
  · refine triple_conseq (reading_killRequest_live (s := s.sweeping p (s.countedAt p y i) j) hq hv hL') (fun _ h => h) ?_
    exact fun _ _ h => .inl ⟨hiff.mp (of_decide_eq_true hit), h⟩
  · exact triple_pure _ fun _ h => .inr ⟨fun hc => hmiss (decide_eq_true (hiff.mpr hc)), rfl, h⟩

end

/-! ### The beasties a sweep reaches (rule R160) -/

/-- The seven beasties in the order of the sweep (rule R153). -/
abbrev beasties : List (Fin 7) := [0, 1, 2, 3, 4, 5, 6]

theorem mem_beasties (i : Fin 7) : i ∈ beasties := by fin_cases i <;> simp

/-- The sweep visits the beasties by their index. -/
theorem before_and_after {done rest : List (Fin 7)} {i : Fin 7} (h : beasties = done ++ i :: rest) :
    (∀ j ∈ done, j < i) ∧ ∀ j ∈ rest, i < j := by
  have hsorted : (done ++ i :: rest).Pairwise (· < ·) := h ▸ by decide
  obtain ⟨-, hrest, hdone⟩ := List.pairwise_append.mp hsorted
  exact ⟨fun j hj => hdone j hj i List.mem_cons_self, fun _ => List.rel_of_pairwise_cons hrest⟩

theorem mem_before_iff {done rest : List (Fin 7)} {i : Fin 7} (h : beasties = done ++ i :: rest) {j : Fin 7} :
    j ∈ done ↔ j < i := by
  obtain ⟨hbefore, hafter⟩ := before_and_after h
  refine ⟨hbefore j, fun hlt => ?_⟩
  have hj : j ∈ done ++ i :: rest := h ▸ mem_beasties j
  refine (List.mem_append.mp hj).resolve_right fun hj => ?_
  rcases List.mem_cons.mp hj with rfl | hj
  · exact lt_irrefl _ hlt
  · exact lt_asymm hlt (hafter j hj)

theorem mem_upTo_iff {done rest : List (Fin 7)} {i : Fin 7} (h : beasties = done ++ i :: rest) {j : Fin 7} :
    j ∈ done ++ [i] ↔ j ≤ i := by
  rw [List.mem_append, mem_before_iff h, List.mem_singleton, le_iff_lt_or_eq]

theorem State.reaches_iff_before {s : State} {p : Fin 2} {done rest : List (Fin 7)} {i : Fin 7}
    (h : beasties = done ++ i :: rest) : s.Reaches p i ↔ ∀ j ∈ done, ¬ s.CollidesAt p j :=
  forall_congr' fun _ => imp_congr_left (mem_before_iff h).symm

open Classical in
/-- The beasties that player `p`'s sweep from `s` gets to. -/
noncomputable def State.reached (s : State) (p : Fin 2) : List (Fin 7) := beasties.filter fun i => s.Reaches p i

section
variable {s : State} {p : Fin 2}

theorem State.mem_reached {i : Fin 7} : i ∈ s.reached p ↔ s.Reaches p i := by
  simp only [State.reached, List.mem_filter, mem_beasties, true_and, decide_eq_true_iff]

open Classical in
theorem State.reached_of_noCollision (h : ∀ i, ¬ s.CollidesAt p i) : s.reached p = beasties :=
  List.filter_eq_self.mpr fun _ _ => decide_eq_true fun j _ => h j

open Classical in
/-- The beastie that collides is the last one reached. -/
theorem State.reached_of_collision {done rest : List (Fin 7)} {i : Fin 7} (h : beasties = done ++ i :: rest)
    (hr : s.Reaches p i) (hc : s.CollidesAt p i) : s.reached p = done ++ [i] := by
  obtain ⟨hlt, hgt⟩ := before_and_after h
  have hbefore : ∀ j ∈ done, s.Reaches p j := fun j hj k hk => hr k (hk.trans (hlt j hj))
  have hafter : ∀ j ∈ rest, ¬ s.Reaches p j := fun j hj hrj => hrj i (hgt j hj) hc
  unfold State.reached
  rw [h, List.filter_append, List.filter_cons, if_pos (decide_eq_true hr),
    List.filter_eq_self.mpr fun j hj => decide_eq_true (hbefore j hj),
    List.filter_eq_nil_iff.mpr fun j hj => mt of_decide_eq_true (hafter j hj)]

theorem State.exists_reached_of_collision {i : Fin 7} (hr : s.Reaches p i) (hc : s.CollidesAt p i) :
    ∃ done, s.reached p = done ++ [i] := by
  obtain ⟨done, rest, h⟩ := List.append_of_mem (mem_beasties i)
  exact ⟨done, State.reached_of_collision h hr hc⟩

open Classical in
theorem State.overlapCount_eq : s.overlapCount p = ((s.reached p).filter fun i => s.OverlapsY p i).length := by
  simp only [State.overlapCount, State.reached, List.filter_filter, Bool.decide_and, Bool.and_comm]

theorem State.countedOver_reached : s.countedOver p 0 (s.reached p) = BitVec.ofNat 8 (s.overlapCount p) := by
  rw [State.countedOver_eq, State.overlapCount_eq]
  exact BitVec.zero_add _

theorem State.countedOver_snoc (y : Byte) (done : List (Fin 7)) (i : Fin 7) :
    s.countedOver p y (done ++ [i]) = s.countedAt p (s.countedOver p y done) i := List.foldl_append

open Classical in
/-- The count of at most seven beasties is 0 only when none of them overlaps vertically. -/
theorem State.countedOver_ne_zero {l : List (Fin 7)} (hl : l.length ≤ 7) :
    s.countedOver p 0 l ≠ 0 ↔ ∃ j ∈ l, s.OverlapsY p j := by
  have hlen := (List.length_filter_le (fun i => decide (s.OverlapsY p i)) l).trans hl
  have hzero (n : Nat) (hn : n ≤ 7) : (0 : Byte) + BitVec.ofNat 8 n ≠ 0 ↔ 0 < n := by
    rw [ne_eq, ← BitVec.toNat_inj]
    simp only [BitVec.zero_add, BitVec.toNat_ofNat, BitVec.ofNat_eq_ofNat]
    omega
  rw [State.countedOver_eq, hzero _ hlen, List.length_pos_iff_exists_mem]
  simp only [List.mem_filter, decide_eq_true_iff]

/-- The machine's test at beastie `i` is the statements' collision (rule R158). -/
theorem State.collidesAt_iff {done rest : List (Fin 7)} {i : Fin 7} (h : beasties = done ++ i :: rest) :
    s.CollidesAt p i ↔ s.OverlapsX p i ∧ s.countedOver p 0 (done ++ [i]) ≠ 0 := by
  have hlen : (done ++ [i]).length ≤ 7 := by
    have hall := congrArg List.length h
    simp only [List.length_append, List.length_cons, List.length_nil] at hall ⊢
    omega
  rw [State.countedOver_ne_zero hlen]
  simp only [mem_upTo_iff h]
  rfl

end

/-! ### The sweep (rules R152, R153, R160) -/

/-- The registers of player `p`'s sweep from `s` once the beasties `done` have had their turns. -/
noncomputable def State.sweptTo (s : State) (p : Fin 2) (done : List (Fin 7)) : State :=
  s.sweeping p (s.countedOver p 0 done) (done.foldl (fun _ i => BitVec.ofNat 3 i.val) s.beastIdx)

theorem State.sweptTo_snoc (s : State) (p : Fin 2) (done : List (Fin 7)) (i : Fin 7) :
    s.sweptTo p (done ++ [i]) =
      s.sweeping p (s.countedAt p (s.countedOver p 0 done) i) (BitVec.ofNat 3 i.val) := by
  rw [State.sweptTo, State.countedOver_snoc, List.foldl_append]
  rfl

open Classical in
/-- What the cells read as at the end of player `p`'s sweep from `s`. -/
noncomputable def State.endBytes (s : State) (p : Fin 2) : Nat → Byte :=
  if ∃ i, s.CollidesAt p i then (s.sweptTo p (s.reached p)).killedBytes p (s.sweptBytes p (s.reached p))
  else s.sweptBytes p (s.reached p)

theorem State.endBytes_of_collision {s : State} {p : Fin 2} {i : Fin 7} (h : s.CollidesAt p i) :
    s.endBytes p = (s.sweptTo p (s.reached p)).killedBytes p (s.sweptBytes p (s.reached p)) := if_pos ⟨i, h⟩

theorem State.endBytes_of_noCollision {s : State} {p : Fin 2} (h : ∀ i, ¬ s.CollidesAt p i) :
    s.endBytes p = s.sweptBytes p (s.reached p) := if_neg (not_exists.mpr h)

section
variable {s : State} (hq : s.Quiet) (hv : s.cfg.Valid) {p : Fin 2} (hlive : s.PlayerLive p)
include hq hv hlive

/-- One turn of the sweep (rule R153). -/
theorem reading_visitBeastie {done rest : List (Fin 7)} {i : Fin 7} (h : beasties = done ++ i :: rest) :
    Completes (Reading (s.sweptTo p done) (s.sweptBytes p done)) (visitBeastie p i)
      (TurnEnds (s.CollidesAt p i) (s.sweptTo p (done ++ [i])) p (s.sweptBytes p (done ++ [i]))) := by
  have hinput {x : PlainCell} (hx : x ∉ PlainCell.beastOuts p) := State.sweptBytes_addr (done := done) hv hx
  have hstage := hinput (x := .bStage i) (by simp [PlainCell.mem_beastOuts])
  have hY := hinput (x := .bY i) (by simp [PlainCell.mem_beastOuts])
  have hX := hinput (x := .bX i) (by simp [PlainCell.mem_beastOuts])
  have hL := hinput (x := .pLive p) (by simp [PlainCell.mem_beastOuts])
  rw [State.collidesAt_iff h, State.countedOver_snoc, State.sweptTo_snoc, State.sweptBytes_snoc]
  refine reading_reg <|
    triple_bind (reading_update (s.sweeping p (s.countedOver p 0 done) (BitVec.ofNat 3 i.val))) fun _ => ?_
  refine reading_readCell (base := s.sweeping p _ _) hq hv (x := .bStage i) hstage ?_
  refine triple_ite (fun hbeastie => ?_) fun hskip => ?_
  · have houts : s.liveOuts p i = PlainCell.outsOf p i := if_pos hbeastie
    rw [houts]
    exact reading_liveBeastie hq hv hbeastie hY hX (hL ▸ hlive)
  · have houts : s.liveOuts p i = [] := if_neg hskip
    have hcount : s.countedAt p (s.countedOver p 0 done) i = s.countedOver p 0 done := if_neg fun h => hskip h.1
    rw [houts, hcount]
    exact triple_pure _ fun _ ht => .inr ⟨fun hc => hskip hc.1.1, rfl, ht⟩

/-- The rest of a sweep that no beastie has ended so far. -/
theorem reading_sweep {l done : List (Fin 7)} (h : beasties = done ++ l) (hdone : ∀ j ∈ done, ¬ s.CollidesAt p j) :
    Completes (Reading (s.sweptTo p done) (s.sweptBytes p done)) (sweep p l) fun _ =>
      Reading (s.sweptTo p (s.reached p)) (s.endBytes p) := by
  induction l generalizing done with
  | nil =>
    rw [List.append_nil] at h
    subst h
    have hnone : ∀ i, ¬ s.CollidesAt p i := fun i => hdone i (mem_beasties i)
    rw [State.endBytes_of_noCollision hnone, State.reached_of_noCollision hnone]
    exact triple_pure _ fun _ ht => ht
  | cons i rest ih =>
    refine triple_bind (reading_visitBeastie hq hv hlive h) fun stop => ?_
    rintro t (⟨hc, rfl, ht⟩ | ⟨hc, rfl, ht⟩)
    · rw [State.endBytes_of_collision hc, State.reached_of_collision h ((State.reaches_iff_before h).mpr hdone) hc]
      exact ht
    · have hsplit : beasties = done ++ [i] ++ rest := by rw [h, List.append_assoc, List.singleton_append]
      have hdone' : ∀ j ∈ done ++ [i], ¬ s.CollidesAt p j := by
        simpa [or_imp, forall_and] using ⟨hdone, hc⟩
      exact ih hsplit hdone' t ht

/-- What the relay does for a live player. -/
theorem reading_livePlayer :
    Completes (Reading s s.shared.get) (livePlayer p) fun _ => Reading (s.sweptTo p (s.reached p)) (s.endBytes p) := by
  refine reading_reg <| reading_readCell hq hv (x := .pX p) rfl ?_
  refine triple_bind (reading_update { s with pX := s.playerX p }) fun _ => ?_
  refine reading_readCell (base := { s with pX := s.playerX p }) hq hv (x := .pY p) rfl ?_
  refine triple_bind (reading_update { s with pX := s.playerX p, pY := s.playerY p }) fun _ => ?_
  refine triple_bind (reading_update (s.sweptTo p [])) fun _ => ?_
  exact reading_sweep hq hv hlive (done := []) rfl nofun

end

/-! ### The end of the sweep in the statements' words -/

section
variable {s : State} {p : Fin 2}

theorem sweptTo_index_of_collision {i : Fin 7} (hr : s.Reaches p i) (hc : s.CollidesAt p i) :
    (s.sweptTo p (s.reached p)).beastIdx = BitVec.ofNat 3 i.val := by
  obtain ⟨done, h⟩ := State.exists_reached_of_collision hr hc
  rw [h, State.sweptTo_snoc]
  rfl

theorem sweepIndex_sweptTo : SweepIndex s p (s.sweptTo p (s.reached p)).beastIdx :=
  ⟨fun _ => sweptTo_index_of_collision, fun h => by rw [State.reached_of_noCollision h]; rfl⟩

/-- Apart from the kill cells, the cells are those of the beasties reached. -/
theorem endBytes_of_ne {b : Nat} (hreq : b ≠ s.cfg.aKillReq[p]) (hidx : b ≠ s.cfg.aKillIdx[p]) :
    s.endBytes p b = s.sweptBytes p (s.reached p) b := by
  unfold State.endBytes
  split
  · exact killedBytes_of_ne (s := s.sweptTo p (s.reached p)) hreq hidx _
  · rfl

variable (hv : s.cfg.Valid)
include hv

theorem endBytes_out {i : Fin 7} {x : PlainCell} (hx : x ∈ PlainCell.outsOf p i) :
    s.endBytes p (s.cfg.addr x) = s.sweptBytes p (s.reached p) (s.cfg.addr x) :=
  have ⟨hreq, hidx⟩ := hv.out_ne_kill hx
  endBytes_of_ne hreq hidx

theorem endBytes_kill_of_collision {i : Fin 7} (hr : s.Reaches p i) (hc : s.CollidesAt p i) :
    s.endBytes p s.cfg.aKillReq[p] = s.cfg.vKill ∧ s.endBytes p s.cfg.aKillIdx[p] = BitVec.ofNat 8 i.val := by
  have hkill {x : PlainCell} (hx : x ∈ [PlainCell.killReq p, .killIdx p]) :
      s.endBytes p (s.cfg.addr x) = (s.sweptTo p (s.reached p)).killByte x := by
    rw [State.endBytes_of_collision hc]
    exact killedBytes_addr (s := s.sweptTo p (s.reached p)) hv hx _
  refine ⟨hkill (x := .killReq p) (by simp), (hkill (x := .killIdx p) (by simp)).trans ?_⟩
  show (s.sweptTo p (s.reached p)).beastIdx.setWidth 8 = _
  rw [sweptTo_index_of_collision hr hc]
  have hi := i.isLt
  bv_omega

theorem endBytes_kill_of_noCollision (h : ∀ i, ¬ s.CollidesAt p i) :
    s.endBytes p s.cfg.aKillReq[p] = s.shared.get s.cfg.aKillReq[p] ∧
      s.endBytes p s.cfg.aKillIdx[p] = s.shared.get s.cfg.aKillIdx[p] := by
  rw [State.endBytes_of_noCollision h]
  exact ⟨State.sweptBytes_addr hv (x := .killReq p) (by simp [PlainCell.mem_beastOuts]),
    State.sweptBytes_addr hv (x := .killIdx p) (by simp [PlainCell.mem_beastOuts])⟩

theorem sweptBytes_reached_skipped {i : Fin 7} (h : ¬ (s.Reaches p i ∧ s.BeastieLive i)) {x : PlainCell}
    (hx : x ∈ PlainCell.outsOf p i) : s.sweptBytes p (s.reached p) (s.cfg.addr x) = s.shared.get (s.cfg.addr x) := by
  refine storedAt_of_not_mem fun y hy e => h ?_
  obtain rfl : x = y := hv.addr_inj e
  obtain ⟨j, hj, hxj⟩ := List.mem_flatMap.mp hy
  obtain ⟨hlj, hxj⟩ := State.mem_liveOuts.mp hxj
  obtain rfl := PlainCell.outsOf_inj hxj hx
  exact ⟨State.mem_reached.mp hj, hlj⟩

theorem sweepMemory_of_endBytes {m : Memory} (hm : ∀ b, m.get b = s.endBytes p b) : SweepMemory s p m := by
  have hout {i : Fin 7} {x : PlainCell} (hx : x ∈ PlainCell.outsOf p i) := (hm (s.cfg.addr x)).trans (endBytes_out hv hx)
  refine ⟨fun i hr hl => ?_, fun i hskip => ?_, fun i hr hc => ?_, fun hnone => ?_, fun b hother hreq hidx => ?_⟩
  · have fresh (x : PlainCell) (hx : x ∈ PlainCell.outsOf p i) : m.get (s.cfg.addr x) = s.freshByte x :=
      (hout hx).trans (State.sweptBytes_live hv (State.mem_reached.mpr hr) hl hx)
    obtain ⟨hvCode, hvDist, hhCode, hhDist⟩ := PlainCell.forall_outsOf.mp fresh
    exact ⟨hvCode.trans (compareCoord_code _ _ _), (congrArg BitVec.toNat hvDist).trans (compareCoord_distance _ _ _),
      hhCode.trans (compareCoord_code _ _ _), (congrArg BitVec.toNat hhDist).trans (compareCoord_distance _ _ _)⟩
  · have skipped (x : PlainCell) (hx : x ∈ PlainCell.outsOf p i) :
        m.get (s.cfg.addr x) = s.shared.get (s.cfg.addr x) :=
      (hout hx).trans (sweptBytes_reached_skipped hv hskip hx)
    exact PlainCell.forall_outsOf.mp skipped
  · rw [hm, hm]
    exact endBytes_kill_of_collision hv hr hc
  · rw [hm, hm]
    exact endBytes_kill_of_noCollision hv hnone
  · rw [hm, endBytes_of_ne hreq hidx]
    refine State.sweptBytes_of_not_out fun x hx e => hother ?_
    rw [Cfg.beastOutCells_eq, e]
    exact List.mem_map_of_mem hx

end

/-! ### The statements -/

/-- The relay goes on with the byte in the liveness cell (rule R151). -/
theorem runSlot_beastieRelay {s : State} (hq : s.Quiet) (hv : s.cfg.Valid) (p : Fin 2) (n : Fin 21) :
    runSlot n (beastieRelay p) s =
      runSlot n (if Alive s.cfg (s.shared.get s.cfg.aPLive[p]) then livePlayer p else pure ()) s :=
  runSlot_read hq (addr := (·.aPLive[p])) (inShared_pLive hv p) n fun cfg l => if Alive cfg l then livePlayer p else pure ()

/-- Settles O24: behind the guard nothing is left to do. -/
theorem beastieGuard : Obligations.BeastieGuard := by
  intro s p i n hq hv hslot hdead
  obtain ⟨hexec, hnext⟩ := exec_beastieSlot hslot s
  have hguard : ¬ Alive s.cfg (s.shared.get s.cfg.aPLive[p]) := hdead
  rw [hexec, runSlot_beastieRelay hq hv, if_neg hguard, runSlot_pure, hnext]

/-- Settles O25: the sweep ends with the beasties it reaches. -/
theorem beastieSweep : Obligations.BeastieSweep := by
  intro s p i n hq hv hslot hlive
  obtain ⟨hexec, hnext⟩ := exec_beastieSlot hslot s
  have hguard : Alive s.cfg (s.shared.get s.cfg.aPLive[p]) := hlive
  have hsweep := reading_livePlayer (s := { s with pc := .slot n }) hq hv hlive
  have hstart : ∀ t, t = { s with pc := .slot n } →
      Reading { s with pc := .slot n } ({ s with pc := .slot n } : State).shared.get t := by
    rintro _ rfl
    exact reading_self _
  obtain ⟨_, ⟨m, hm⟩, e⟩ := runSlot_of_completes (triple_conseq hsweep hstart fun _ _ h => h)
  refine ⟨m, (s.sweptTo p (s.reached p)).beastIdx, ?_, sweepMemory_of_endBytes hv hm, sweepIndex_sweptTo⟩
  rw [hexec, runSlot_beastieRelay hq hv, if_pos hguard, e, hnext, ← State.countedOver_reached]
  rfl

/-- Settles O26: the second beastie collides when the first was counted, and in the other order none does. -/
theorem collisionDefect : Obligations.CollisionDefect := by
  intro s p i n a b hq hv hslot hlive honly hYa hXa hXb hYb
  obtain ⟨m, j, hexec, ⟨-, -, hkill, hnokill, -⟩, -⟩ := beastieSweep s p i n hq hv hslot hlive
  have overlapsX_eq {k : Fin 7} (h : s.OverlapsX p k) : k = b :=
    ((honly k).mp h.1).resolve_left fun e => hXa (e ▸ h)
  have overlapsY_eq {k : Fin 7} (h : s.OverlapsY p k) : k = a :=
    ((honly k).mp h.1).resolve_right fun e => hYb (e ▸ h)
  refine ⟨_, hexec, fun hab => ?_, fun hba => ?_⟩
  · exact hkill b (fun k hk hc => hk.ne (overlapsX_eq hc.1)) ⟨hXb, a, hab.le, hYa⟩
  · refine hnokill fun k hc => ?_
    obtain ⟨hX, l, hle, hY⟩ := hc
    obtain rfl := overlapsX_eq hX
    obtain rfl := overlapsY_eq hY
    exact absurd hba hle.not_gt

/-- Settles O27: the re-check reads the liveness cell, and the failed branch does nothing. -/
theorem failedRecheck : Obligations.FailedRecheck := by
  intro s p hq hv hdead
  have hread := run_memRead_quiet s s.cfg.aPLive[p] hq.1 hq.2 (inShared_pLive hv p)
  have hrecheck : ¬ Alive s.cfg (s.shared.get s.cfg.aPLive[p]) := hdead
  simp only [killRequest, run_bind, run_reg, hread, if_neg hrecheck, run_pure]

end Sys2Proof.Machine

/-!
PROOFS. The statements about the clock, the credit mischief and the extend rotator. In a quiet state each of their slots ends in
a state written out in full; a clock slot's in terms of the count less one (`State.lessOne`), from which the whole countdown
follows tick by tick.
-/

namespace Sys2Proof.Machine

/-! ### A written cell and the others -/

theorem Memory.get_put_self (m : Memory) (a : Nat) (v : Byte) : (m.put a v).get a = v := by
  rw [Memory.get_put, if_pos rfl]

theorem Memory.get_put_of_ne (m : Memory) {a b : Nat} (v : Byte) (h : b ≠ a) : (m.put a v).get b = m.get b := by
  rw [Memory.get_put, if_neg h]

/-- A slot whose last access is a write. -/
theorem runSlot_write {s : State} (hq : s.Quiet) {a : Nat} (ha : InShared a) (n : Fin 21) (v : Byte) :
    runSlot n (memWrite a v) s = .next { s with pc := nextPc n, shared := s.shared.put a v } :=
  runSlot_of_ok n _ s _ (run_memWrite_quiet { s with pc := .slot n } a v hq.1 hq.2 ha)

/-- A slot that begins with a read goes on with the byte there. -/
theorem runSlot_read_bind {s : State} (hq : s.Quiet) {a : Nat} (ha : InShared a) (n : Fin 21) (rest : Byte → SlotM Unit) :
    runSlot n (memRead a >>= rest) s = runSlot n (rest (s.shared.get a)) s := by
  have hread := run_memRead_quiet { s with pc := .slot n } a hq.1 hq.2 ha
  simp only [runSlot, run_bind, hread]

/-- A slot that begins with a write goes on in the state the write leaves. -/
theorem runSlot_write_bind {s : State} (hq : s.Quiet) {a : Nat} (ha : InShared a) (n : Fin 21) (v : Byte)
    (rest : Unit → SlotM Unit) :
    runSlot n (memWrite a v >>= rest) s = runSlot n (rest ()) { s with shared := s.shared.put a v } := by
  have hwrite := run_memWrite_quiet { s with pc := .slot n } a v hq.1 hq.2 ha
  simp only [runSlot, run_bind, hwrite]

/-! ### The clock's count (rule R171) -/

theorem toNat_halfOf (hi lo : Byte) : (halfOf hi lo).toNat = hi.toNat * 256 + lo.toNat := by
  rw [halfOf, BitVec.toNat_append, ← Nat.shiftLeft_add_eq_or_of_lt lo.isLt, Nat.shiftLeft_eq]

theorem toNat_bytes (a : Half) : (highByte a).toNat * 256 + (lowByte a).toNat = a.toNat := by
  rw [← toNat_halfOf, halfOf_bytes]

/-- The clock's count less one, as the slot computes it. -/
def State.lessOne (s : State) : Half := halfOf (s.shared.get s.cfg.aClkHi) (s.shared.get s.cfg.aClkLo) - 1

theorem State.toNat_lessOne (s : State) : s.lessOne.toNat = (s.clockCount + 65535) % 65536 := by
  rw [State.lessOne, BitVec.toNat_sub, toNat_halfOf, Nat.add_comm]
  rfl

theorem State.clockCount_lt (s : State) : s.clockCount < 65536 := by
  have hhi := (s.shared.get s.cfg.aClkHi).isLt
  have hlo := (s.shared.get s.cfg.aClkLo).isLt
  rw [State.clockCount]
  omega

theorem State.lessOne_eq_zero_iff (s : State) : s.lessOne = 0 ↔ s.clockCount = 1 := by
  have hlt := s.clockCount_lt
  rw [← BitVec.toNat_inj, s.toNat_lessOne]
  show (s.clockCount + 65535) % 65536 = 0 ↔ s.clockCount = 1
  omega

/-! ### The clock's slot (rules R170 to R173) -/

/-- The clock's slot has ended a countdown. -/
def State.clockEnded (s : State) : State :=
  { s with pc := .slot 14, shared := (s.shared.put s.cfg.aClkActive 0).put s.cfg.aClkDone s.cfg.vDone }

/-- The clock's slot has stored the count less one. -/
def State.clockStored (s : State) : State :=
  { s with
    pc := .slot 14, shared := (s.shared.put s.cfg.aClkHi (highByte s.lessOne)).put s.cfg.aClkLo (lowByte s.lessOne) }

section
variable {s : State} (hq : s.Quiet) (hv : s.cfg.Valid)

theorem clockEnded_of_ne {a : Nat} (hactive : a ≠ s.cfg.aClkActive) (hdone : a ≠ s.cfg.aClkDone) :
    s.clockEnded.shared.get a = s.shared.get a := by
  rw [State.clockEnded, Memory.get_put_of_ne _ _ hdone, Memory.get_put_of_ne _ _ hactive]

theorem clockEnded_done : s.clockEnded.shared.get s.cfg.aClkDone = s.cfg.vDone := Memory.get_put_self _ _ _

theorem clockStored_of_ne {a : Nat} (hhi : a ≠ s.cfg.aClkHi) (hlo : a ≠ s.cfg.aClkLo) :
    s.clockStored.shared.get a = s.shared.get a := by
  rw [State.clockStored, Memory.get_put_of_ne _ _ hlo, Memory.get_put_of_ne _ _ hhi]

include hv

theorem clockEnded_active : s.clockEnded.shared.get s.cfg.aClkActive = 0 := by
  have hne : s.cfg.aClkActive ≠ s.cfg.aClkDone := (hv.addr_eq .clkActive .clkDone).not.mpr nofun
  rw [State.clockEnded, Memory.get_put_of_ne _ _ hne, Memory.get_put_self]

theorem clockStored_clockCount : s.clockStored.clockCount = (s.clockCount + 65535) % 65536 := by
  have hne : s.cfg.aClkHi ≠ s.cfg.aClkLo := (hv.addr_eq .clkHi .clkLo).not.mpr nofun
  rw [← s.toNat_lessOne, ← toNat_bytes, State.clockCount, State.clockStored, Memory.get_put_of_ne _ _ hne,
    Memory.get_put_self, Memory.get_put_self]

/-- The countdown's end leaves the count cells alone (rule R172). -/
theorem clockEnded_clockCount : s.clockEnded.clockCount = s.clockCount := by
  have hhi := clockEnded_of_ne ((hv.addr_eq .clkHi .clkActive).not.mpr nofun) ((hv.addr_eq .clkHi .clkDone).not.mpr nofun)
  have hlo := clockEnded_of_ne ((hv.addr_eq .clkLo .clkActive).not.mpr nofun) ((hv.addr_eq .clkLo .clkDone).not.mpr nofun)
  exact congrArg₂ (fun hi lo : Byte => hi.toNat * 256 + lo.toNat) hhi hlo

theorem clockStored_active : s.clockStored.shared.get s.cfg.aClkActive = s.shared.get s.cfg.aClkActive :=
  clockStored_of_ne ((hv.addr_eq .clkActive .clkHi).not.mpr nofun) ((hv.addr_eq .clkActive .clkLo).not.mpr nofun)

theorem clockStored_done : s.clockStored.shared.get s.cfg.aClkDone = s.shared.get s.cfg.aClkDone :=
  clockStored_of_ne ((hv.addr_eq .clkDone .clkHi).not.mpr nofun) ((hv.addr_eq .clkDone .clkLo).not.mpr nofun)

include hq

/-- Behind its two reads an active clock's slot goes by the count less one (rule R171). -/
theorem runSlot_clockCount (n : Fin 21) :
    runSlot n clockCount s = runSlot n
      (if s.lessOne = 0 then do
        memWrite s.cfg.aClkActive 0
        raiseOneShot s.cfg.aClkDone s.cfg.vDone
      else do
        memWrite s.cfg.aClkHi (highByte s.lessOne)
        memWrite s.cfg.aClkLo (lowByte s.lessOne)) s :=
  (runSlot_read hq (addr := (·.aClkHi)) (hv.inShared_addr .clkHi) n _).trans
    (runSlot_read_bind hq (a := s.cfg.aClkLo) (hv.inShared_addr .clkLo) n _)

theorem exec_clock_inactive (h : s.shared.get s.cfg.aClkActive = 0) : exec .clock s = .next { s with pc := .slot 14 } := by
  rw [exec_clock hq hv, if_pos h, runSlot_pure]
  rfl

theorem exec_clock_ends (hactive : s.shared.get s.cfg.aClkActive ≠ 0) (hcount : s.clockCount = 1) :
    exec .clock s = .next s.clockEnded := by
  rw [exec_clock hq hv, if_neg hactive, runSlot_clockCount hq hv, if_pos (s.lessOne_eq_zero_iff.mpr hcount),
    runSlot_write_bind hq (a := s.cfg.aClkActive) (hv.inShared_addr .clkActive)]
  exact runSlot_write (s := { s with shared := s.shared.put s.cfg.aClkActive 0 }) hq (hv.inShared_addr .clkDone) 13 s.cfg.vDone

theorem exec_clock_stores (hactive : s.shared.get s.cfg.aClkActive ≠ 0) (hcount : s.clockCount ≠ 1) :
    exec .clock s = .next s.clockStored := by
  rw [exec_clock hq hv, if_neg hactive, runSlot_clockCount hq hv, if_neg (s.lessOne_eq_zero_iff.not.mpr hcount),
    runSlot_write_bind hq (a := s.cfg.aClkHi) (hv.inShared_addr .clkHi)]
  exact runSlot_write (s := { s with shared := s.shared.put s.cfg.aClkHi (highByte s.lessOne) }) hq (hv.inShared_addr .clkLo)
    13 (lowByte s.lessOne)

end

/-- Settles O31: the active cell and the count say which of the three states the slot ends in. -/
theorem clockSlot : Obligations.ClockSlot := by
  intro s hq hv
  refine ⟨exec_clock_inactive hq hv, fun hactive hcount => ?_, fun hactive hcount => ?_⟩
  · exact ⟨_, exec_clock_ends hq hv hactive hcount, clockEnded_active hv, clockEnded_done,
      fun _ h h' => clockEnded_of_ne h h'⟩
  · exact ⟨_, exec_clock_stores hq hv hactive hcount, clockStored_clockCount hv, fun _ h h' => clockStored_of_ne h h'⟩

/-! ### Whole countdowns (rule R172) -/

theorem sameClockCells_iff {s t : State} :
    SameClockCells s t ↔ t.shared.get s.cfg.aClkActive = s.shared.get s.cfg.aClkActive ∧
      t.shared.get s.cfg.aClkHi = s.shared.get s.cfg.aClkHi ∧ t.shared.get s.cfg.aClkLo = s.shared.get s.cfg.aClkLo ∧
      t.shared.get s.cfg.aClkDone = s.shared.get s.cfg.aClkDone := by
  simp [SameClockCells]

/-- `s` has `n` ticks of the countdown still to go, its active and done cells holding what they hold in `start`. -/
structure CountsFrom (start s : State) (n : Nat) : Prop where
  count  : s.clockCount = n
  active : s.shared.get s.cfg.aClkActive = start.shared.get start.cfg.aClkActive
  done   : s.shared.get s.cfg.aClkDone = start.shared.get start.cfg.aClkDone

/-- A tick that is not the last takes one from the count. -/
theorem CountsFrom.clockStored {start s : State} {n : Nat} (h : CountsFrom start s (n + 1)) (hv : s.cfg.Valid) :
    CountsFrom start s.clockStored n where
  count := by
    have hlt := s.clockCount_lt
    rw [clockStored_clockCount hv, h.count]
    rw [h.count] at hlt
    omega
  active := (clockStored_active hv).trans h.active
  done := (clockStored_done hv).trans h.done

/-- What happens between two ticks leaves the countdown where it is. -/
theorem CountsFrom.between {start s t : State} {n : Nat} (h : CountsFrom start s n) (hcfg : t.cfg = s.cfg)
    (hkept : SameClockCells s t) : CountsFrom start t n := by
  obtain ⟨hactive, hhi, hlo, hdone⟩ := sameClockCells_iff.mp hkept
  refine ⟨?_, ?_, ?_⟩
  · rw [← h.count, State.clockCount, State.clockCount, hcfg, hhi, hlo]
  · rw [← h.active, hcfg, hactive]
  · rw [← h.done, hcfg, hdone]

/-- Before tick `j` of an active countdown from `ticks`, `ticks - j` ticks are to go. -/
theorem ClockTicks.countsFrom {ticks : Nat} {before : Nat → State} (hticks : ClockTicks ticks before)
    (hv : (before 0).cfg.Valid) (hactive : (before 0).shared.get (before 0).cfg.aClkActive ≠ 0)
    (hcount : (before 0).clockCount = ticks) {j : Nat} (hj : j < ticks) : CountsFrom (before 0) (before j) (ticks - j) := by
  induction j with
  | zero => exact ⟨hcount, rfl, rfl⟩
  | succ j ih =>
    have hprev : j < ticks := Nat.lt_of_succ_lt hj
    have hcfg := hticks.cfg j hprev
    have hdue := ih hprev
    have hstep : ticks - j = ticks - (j + 1) + 1 := by omega
    rw [hstep] at hdue
    have hrun := exec_clock_stores (hticks.quiet j hprev) (hcfg ▸ hv) (hdue.active ▸ hactive) (by rw [hdue.count]; omega)
    exact (hdue.clockStored (hcfg ▸ hv)).between ((hticks.cfg (j + 1) hj).trans hcfg.symm) (hticks.kept j _ hj hrun)

/-- Settles O32: every tick but the last stores the count less one, and the last finds the count 1. -/
theorem clockCompletes : Obligations.ClockCompletes := by
  rintro _ N before hv rfl hactive hcount - hticks k hk
  have hdue := hticks.countsFrom hv hactive hcount hk
  have hcfg := hticks.cfg k hk
  have hquiet := hticks.quiet k hk
  have hvalid : (before k).cfg.Valid := hcfg ▸ hv
  have hstill : (before k).shared.get (before k).cfg.aClkActive ≠ 0 := hdue.active ▸ hactive
  rw [← hcfg]
  by_cases hlast : k + 1 = N
  · have hone : (before k).clockCount = 1 := by rw [hdue.count]; omega
    refine ⟨_, exec_clock_ends hquiet hvalid hstill hone, fun hmore => absurd hlast hmore.ne, fun _ => ?_⟩
    exact ⟨(clockEnded_clockCount hvalid).trans hone, clockEnded_active hvalid, clockEnded_done⟩
  · have hmany : (before k).clockCount ≠ 1 := by rw [hdue.count]; omega
    have hstep : N - k = N - (k + 1) + 1 := by omega
    rw [hstep] at hdue
    obtain ⟨hnext, hon, hflag⟩ := hdue.clockStored hvalid
    exact ⟨_, exec_clock_stores hquiet hvalid hstill hmany, fun _ => ⟨hnext, hcfg ▸ hon, hcfg ▸ hflag⟩,
      fun h => absurd h hlast⟩

/-! ### The credit mischief (rules R175, R176) -/

section
variable {s : State} (hq : s.Quiet) (hv : s.cfg.Valid)
include hq hv

/-- Behind the enable value the level decides. -/
theorem runSlot_mischiefArmed (n : Fin 21) :
    runSlot n mischiefArmed s = .next
      (if s.ctrlCache[(2 : Fin 3)] = s.cfg.vMischiefLevel then
        { s with pc := nextPc n, shared := s.shared.put s.cfg.aPhony s.cfg.vMischiefCredits }
      else { s with pc := nextPc n }) := by
  have hread : runSlot n mischiefArmed s = runSlot n
      (if s.ctrlCache[(2 : Fin 3)] = s.cfg.vMischiefLevel then memWrite s.cfg.aPhony s.cfg.vMischiefCredits else pure ()) s :=
    rfl
  rw [hread]
  split
  · exact runSlot_write hq (hv.inShared_addr .phony) n _
  · exact runSlot_pure n s

theorem exec_mischief_enabled (henable : s.shared.get s.cfg.aMischiefEn = s.cfg.vMischiefEn) :
    exec .mischief s = runSlot 14 mischiefArmed s :=
  (exec_slotOfCell hq hv (cell := .mischiefEn) rfl nofun).trans (congrArg (runSlot 14 · s) (if_pos henable))

end

/-- Settles O33: the slot with the enable value in its cell is the command's row, and the row goes by the level. -/
theorem mischief : Obligations.Mischief := by
  intro s i hq hv hi
  have hexec : exec i s = runSlot 14 mischiefArmed s := by
    rcases hi with rfl | ⟨rfl, henable⟩
    · rfl
    · exact exec_mischief_enabled hq hv henable
  rw [hexec, runSlot_mischiefArmed hq hv]
  refine ⟨fun hlevel => ?_, fun hlevel => ?_⟩
  · rw [if_pos hlevel]
    exact ⟨_, rfl, Memory.get_put_self _ _ _, fun _ h => Memory.get_put_of_ne _ _ h⟩
  · rw [if_neg hlevel]
    rfl

/-! ### The extend rotator (rules R177, R178) -/

theorem toNat_incMod (v : Byte) {m : Byte} (hm : m ≠ 0) : (incMod v m).toNat = (v.toNat + 1) % m.toNat := by
  have hpos : 0 < m.toNat := Nat.pos_of_ne_zero fun h => hm (BitVec.eq_of_toNat_eq h)
  rw [incMod, BitVec.toNat_ofNat, Nat.mod_eq_of_lt ((Nat.mod_lt _ hpos).trans m.isLt)]

/-- Below the modulus 6 the successor goes round (rule R177). -/
theorem toNat_extendNext_inRange {cfg : Cfg} (hmod : cfg.extendModulus = 6) {v : Byte} (h : v.toNat ≤ 5) :
    (extendNext cfg v).toNat = (v.toNat + 1) % 6 := by
  have hlt : v < (6 : Byte) := by bv_omega
  rw [extendNext, hmod, if_pos hlt, toNat_incMod v (by decide)]
  rfl

/-- From the modulus 6 up the successor is the table's entry (rule R178). -/
theorem extendNext_outOfRange {cfg : Cfg} (hv : cfg.Valid) (hmod : cfg.extendModulus = 6) {v : Byte} (h : 6 ≤ v.toNat) :
    cfg.extendOor[v.toNat - 6]? = some (extendNext cfg v) := by
  obtain ⟨-, -, -, -, hlength, -⟩ := hv.tables
  have hentry : v.toNat - 6 < cfg.extendOor.length := by have := v.isLt; omega
  have hge : ¬ v < (6 : Byte) := by bv_omega
  rw [extendNext, hmod, if_neg hge, extendOorByte, if_neg h.not_gt, romByte, List.getElem?_eq_getElem hentry, Option.getD_some]

/-- The slot reads the cell and writes the successor back. -/
theorem exec_extend {s : State} (hq : s.Quiet) (hv : s.cfg.Valid) :
    exec .extend s = .next { s with
      pc := .slot 16, shared := s.shared.put s.cfg.aExtend (extendNext s.cfg (s.shared.get s.cfg.aExtend)) } :=
  (runSlot_read hq (addr := (·.aExtend)) (hv.inShared_addr .extend) 15 fun cfg v =>
    memWrite cfg.aExtend (extendNext cfg v)).trans (runSlot_write hq (hv.inShared_addr .extend) 15 _)

/-- Settles O34: what is written back is the successor, in range or by the table. -/
theorem extendSlot : Obligations.ExtendSlot := by
  intro s hq hv hconst
  obtain ⟨-, -, -, -, -, -, -, -, -, -, -, -, hmod, -⟩ := hconst
  refine ⟨_, exec_extend hq hv, fun hlow => ?_, fun hhigh => ?_, fun _ h => Memory.get_put_of_ne _ _ h⟩
  · rw [Memory.get_put_self]
    exact toNat_extendNext_inRange hmod hlow
  · rw [Memory.get_put_self]
    exact extendNext_outOfRange hv hmod hhigh

end Sys2Proof.Machine

/-!
PROOFS. The statements about the translators. In a quiet state a translator's slot, armed, is its firing (`fire`), whose reads
leave a refusal or two writes: of the looked-up byte at the destination, where an invalid base stops it, and of the status.
-/

namespace Sys2Proof.Machine

/-! ### A firing that stops at its write (rule R42) -/

/-- A slot that begins with a write outside `Shared` ends there, whatever was to follow. -/
theorem runSlot_write_bind_outside {s : State} (hq : s.Quiet) {a : Nat} (ha : ¬ InShared a) (n : Fin 21) (v : Byte)
    (rest : Unit → SlotM Unit) :
    runSlot n (memWrite a v >>= rest) s = .next { s with pc := .slot n, status := .faulted a } := by
  have hwrite := run_memWrite_outside { s with pc := .slot n } a v hq.1 hq.2 ha
  simp only [runSlot, run_bind, hwrite]

/-! ### The tables (rules R185, R187, R188) -/

theorem translatorByte_of_getElem? {c : Cfg} {n j b : Byte} {table : List Byte} (h : c.xlTables[n.toNat]? = some table)
    (hb : table[j.toNat]? = some b) : translatorByte c n j = b := by
  rw [translatorByte, List.getD_eq_getElem?_getD, h, Option.getD_some, romByte, hb, Option.getD_some]

/-- Under a selector up to 4 every index is in range. -/
theorem exists_xlTable_entry {c : Cfg} (hv : c.Valid) {n : Byte} (hn : n.toNat ≤ 4) (j : Byte) :
    ∃ table b, c.xlTables[n.toNat]? = some table ∧ table[j.toNat]? = some b := by
  obtain ⟨-, -, hcount, hlength, -⟩ := hv.tables
  have htable : n.toNat < c.xlTables.length := by omega
  have hentry : j.toNat < c.xlTables[n.toNat].length := by
    rw [hlength _ (List.getElem_mem htable)]
    exact j.isLt
  exact ⟨_, _, List.getElem?_eq_getElem htable, List.getElem?_eq_getElem hentry⟩

/-! ### The slot in a quiet state -/

/-- The cell a firing of translator `t` writes the byte to: base plus offset, without a wrap (rule R189). -/
abbrev State.xlDestination (s : State) (t : Fin 3) : Nat := s.cfg.xlBase[t] + (s.shared.get s.cfg.aXlOffset[t]).toNat

/-- Translator `t`'s slot has written `b` to the destination, and then the status (rules R188 to R190). -/
def State.translated (s : State) (t : Fin 3) (b : Byte) : State :=
  { s with
    pc := nextPc (xlatSlot t)
    shared := (s.shared.put (s.xlDestination t) b).put s.cfg.aXlStatus[t] s.cfg.vXlDone }

theorem translated_status (s : State) (t : Fin 3) (b : Byte) :
    (s.translated t b).shared.get s.cfg.aXlStatus[t] = s.cfg.vXlDone :=
  Memory.get_put_self _ _ _

/-- The status, written last, is not the destination (rule R31). -/
theorem translated_destination {s : State} (hv : s.cfg.Valid) (t : Fin 3) (b : Byte) :
    (s.translated t b).shared.get (s.xlDestination t) = b :=
  have hne : s.xlDestination t ≠ s.cfg.aXlStatus[t] := hv.window_ne t _ (.xlStatus t) rfl
  (Memory.get_put_of_ne _ _ hne).trans (Memory.get_put_self _ _ _)

theorem translated_frame (s : State) (t : Fin 3) (b : Byte) {a : Nat} (hdest : a ≠ s.xlDestination t)
    (hstatus : a ≠ s.cfg.aXlStatus[t]) : (s.translated t b).shared.get a = s.shared.get a :=
  (Memory.get_put_of_ne _ _ hstatus).trans (Memory.get_put_of_ne _ _ hdest)

theorem eq_xlatSlot {t : Fin 3} {j : Instr} {n : Fin 21} (h : (t, j, n) ∈ translatorSlots) : n = xlatSlot t := by
  simp only [translatorSlots, List.mem_cons, Prod.mk.injEq, List.not_mem_nil, or_false] at h
  rcases h with ⟨rfl, rfl, rfl⟩ | ⟨rfl, rfl, rfl⟩ | ⟨rfl, rfl, rfl⟩ <;> rfl

/-- No translator's slot is the tick's last. -/
theorem nextPc_xlatSlot (t : Fin 3) : nextPc (xlatSlot t) = .slot (xlatSlot t + 1) := by
  fin_cases t <;> rfl

section
variable {s : State} (hq : s.Quiet)
include hq

/-- The firing goes on with the selector in the table cell (rules R186, R191). -/
theorem runSlot_fire {t : Fin 3} (hcell : InShared s.cfg.aXlTable[t]) (n : Fin 21) :
    runSlot n (fire t) s = runSlot n
      (if s.shared.get s.cfg.aXlTable[t] > 4 then raise (.refused (.translatorTable t (s.shared.get s.cfg.aXlTable[t])))
        else copyByte t (s.shared.get s.cfg.aXlTable[t])) s :=
  runSlot_read hq (addr := (·.aXlTable[t])) hcell n fun _ v =>
    if v > 4 then raise (.refused (.translatorTable t v)) else copyByte t v

/-- Under a selector up to 4 the reads leave two writes (rules R187 to R190). -/
theorem runSlot_fire_inRange {t : Fin 3} (htable : InShared s.cfg.aXlTable[t]) (hindex : InShared s.cfg.aXlIndex[t])
    (hoffset : InShared s.cfg.aXlOffset[t]) (hsel : (s.shared.get s.cfg.aXlTable[t]).toNat ≤ 4) (n : Fin 21) :
    runSlot n (fire t) s = runSlot n (do
      memWrite (s.xlDestination t)
        (translatorByte s.cfg (s.shared.get s.cfg.aXlTable[t]) (s.shared.get s.cfg.aXlIndex[t]))
      memWrite s.cfg.aXlStatus[t] s.cfg.vXlDone) s := by
  have hle : ¬ s.shared.get s.cfg.aXlTable[t] > 4 := by bv_omega
  rw [runSlot_fire hq htable, if_neg hle]
  exact (runSlot_read hq (addr := (·.aXlIndex[t])) hindex n _).trans (runSlot_read_bind hq hoffset n _)

/-- A selector above 4 stops the firing behind its first read (rule R191(a)). -/
theorem runSlot_fire_above {t : Fin 3} (hcell : InShared s.cfg.aXlTable[t])
    (habove : 4 < (s.shared.get s.cfg.aXlTable[t]).toNat) (n : Fin 21) :
    runSlot n (fire t) s = .next { s with
      pc := .slot n, status := .refused (.translatorTable t (s.shared.get s.cfg.aXlTable[t])) } := by
  have hgt : s.shared.get s.cfg.aXlTable[t] > 4 := habove
  rw [runSlot_fire hq hcell, if_pos hgt, runSlot_raise]

variable (hv : s.cfg.Valid)
include hv

theorem runSlot_fire_copies {t : Fin 3} {table : List Byte} {b : Byte}
    (hsel : (s.shared.get s.cfg.aXlTable[t]).toNat ≤ 4)
    (htable : s.cfg.xlTables[(s.shared.get s.cfg.aXlTable[t]).toNat]? = some table)
    (hentry : table[(s.shared.get s.cfg.aXlIndex[t]).toNat]? = some b) :
    runSlot (xlatSlot t) (fire t) s = .next (s.translated t b) := by
  rw [runSlot_fire_inRange hq (hv.inShared_addr (.xlTable t)) (hv.inShared_addr (.xlIndex t))
      (hv.inShared_addr (.xlOffset t)) hsel, translatorByte_of_getElem? htable hentry,
    runSlot_write_bind hq (hv.inShared_window t _)]
  exact runSlot_write (s := { s with shared := s.shared.put (s.xlDestination t) b }) hq
    (hv.inShared_addr (.xlStatus t)) (xlatSlot t) _

/-- An armed translator's slot, and the row of its command, are the firing (rule R186). -/
theorem exec_translator_armed {t : Fin 3} {i j : Instr} {n : Fin 21} (hslot : (t, j, n) ∈ translatorSlots)
    (hi : i = .xlatArm t ∨ i = j ∧ s.shared.get s.cfg.aXlStatus[t] = s.cfg.vXlArmed) :
    exec i s = runSlot (xlatSlot t) (fire t) s := by
  rcases hi with rfl | ⟨rfl, harmed⟩
  · rfl
  · obtain ⟨hdecode, -⟩ := decode_translatorSlot hslot
    exact (exec_slotOfCell hq hv (cell := .xlStatus t) hdecode nofun).trans
      (congrArg (runSlot (xlatSlot t) · s) (if_pos harmed))

end

/-! ### The statements -/

/-- Settles O35: both ways to fire copy the entry that is there, and the status cell lies outside the window. -/
theorem translatorFires : Obligations.TranslatorFires := by
  intro s t j n i hq hv hslot hi hsel
  obtain ⟨table, b, htable, hentry⟩ := exists_xlTable_entry hv hsel (s.shared.get s.cfg.aXlIndex[t])
  refine ⟨table, b, (s.translated t b).shared, htable, hentry, ?_, translated_destination hv t b, translated_status s t b,
    fun _ => translated_frame s t b⟩
  rw [exec_translator_armed hq hv hslot hi, runSlot_fire_copies hq hv hsel htable hentry, eq_xlatSlot hslot,
    ← nextPc_xlatSlot]
  rfl

/-- Settles O36: neither the done command nor a status that is not armed leaves the slot anything to do. -/
theorem translatorIdle : Obligations.TranslatorIdle := by
  intro s t j n hq hv hslot
  obtain ⟨hdecode, hnext⟩ := decode_translatorSlot hslot
  rw [← hnext]
  exact ⟨runSlot_pure (xlatSlot t) s, fun hidle => exec_noOperation hq hv hdecode nofun (if_neg hidle)⟩

/-- Settles O37: both ways to fire stop at the selector. -/
theorem translatorTableRefused : Obligations.TranslatorTableRefused := by
  intro s t j n i hq hv hslot hi habove
  rw [exec_translator_armed hq hv hslot hi, eq_xlatSlot hslot]
  exact runSlot_fire_above hq (hv.inShared_addr (.xlTable t)) habove (xlatSlot t)

/-- Settles O38: the first of the firing's two writes faults, so the status is not written. -/
theorem translatorBadBase : Obligations.TranslatorBadBase := by
  intro s t n j hq hslot htable hindex hoffset hsel hdest
  have hfire : exec (.xlatArm t) s = runSlot (xlatSlot t) (fire t) s := rfl
  rw [hfire, runSlot_fire_inRange hq htable hindex hoffset hsel, eq_xlatSlot hslot]
  exact runSlot_write_bind_outside hq hdest (xlatSlot t) _ _

end Sys2Proof.Machine

/-!
PROOFS. The statements about the tick trigger, the terminal statuses, the reset watcher and the first tick. Outside a slot a
step is one line of the script or, after its end, the trigger (`step_outside_slot`). The first tick is followed from slot to
slot by what the state before each slot looks like (`FirstTickAt`): a few slots are at work, the others only move `pc` on.
-/

namespace Sys2Proof.Machine

/-! ### The tick trigger (rules R207, R211) -/

theorem trigger_idle {s : State} (hr : s.status = .running) (hp : s.pc = .idle) : s.trigger = { s with pc := .slot 0 } :=
  if_pos ⟨hr, hp⟩

theorem trigger_terminal {s : State} (h : s.status ≠ .running) : s.trigger = s := if_neg fun hi => h hi.1

/-- Settles O48: the trigger takes its own two branches. -/
theorem tickTrigger : Obligations.TickTrigger := fun _ =>
  ⟨fun hr hp => congrArg Host.Outcome.next (trigger_idle hr hp), fun h => congrArg Host.Outcome.next (trigger_terminal h)⟩

/-- After the end of the script the fetch is the trigger (log entry 3). -/
theorem step_empty_script {s : State} (h : s.status ≠ .running ∨ s.pc = .idle) (hs : s.script = []) :
    step s = .next s.trigger := by
  have hfetch : s.fetch = .run .tick s := by rw [fetch_script h, State.fetchScript, hs]
  rw [step, hfetch]
  rfl

/-- Settles O7: the step is the trigger, which a terminal status ignores. -/
theorem stepFreeRuns : Obligations.StepFreeRuns := by
  refine fun s hs => ⟨fun hr hp => ?_, fun h => ?_⟩
  · rw [step_empty_script (.inr hp) hs, trigger_idle hr hp]
  · rw [step_empty_script (.inl h) hs, trigger_terminal h]

/-! ### A terminal status (rules R204, R205, R231) -/

/-- Outside a slot a step that answers a next state is the trigger, after the end of the script, or runs the line in front of
it. -/
theorem step_outside_slot {s t : State} (h : s.status ≠ .running ∨ s.pc = .idle) (e : step s = .next t) :
    t = s.trigger ∨ ∃ i line rest, encode s.cfg i = .script line ∧ s.script = line ++ rest ∧
      exec i { s with script := rest } = .next t := by
  cases hs : s.script with
  | nil =>
    rw [step_empty_script h hs] at e
    exact .inl (Host.Outcome.next.inj e).symm
  | cons b bytes =>
    rw [step, fetch_script h] at e
    cases hd : decodeScript (b :: bytes) with
    | ok r =>
      obtain ⟨i, rest⟩ := r
      rw [fetchScript_of_decode (hs ▸ hd)] at e
      obtain ⟨line, hline, hscript⟩ := line_of_decodeScript s.cfg hd
      exact .inr ⟨i, line, rest, hline, hscript, e⟩
    | error d =>
      simp only [State.fetchScript, hs, hd] at e
      cases e

/-- From `s` to `t` only `Shared`, the script and the records of the environment may have changed. -/
def EnvironmentOnly (s t : State) : Prop :=
  t = { s with
    shared := t.shared, script := t.script, hostReads := t.hostReads, heldBank := t.heldBank, heldCab := t.heldCab,
    draws := t.draws }

/-- The HOST's write changes one cell, if it answers a next state at all. -/
theorem exec_hw_next {s t : State} {a : Half} {v : Byte} (e : exec (.hw a v) s = .next t) :
    t = { s with shared := s.shared.put a.toNat v } := by
  by_cases ha : InShared a.toNat
  · exact (Host.Outcome.next.inj ((execHw_shared s ha v).symm.trans e)).symm
  · exact absurd ((execHw_outside s ha v).symm.trans e) nofun

/-- The HOST's read leaves a record, and a draw at most. -/
theorem exec_hr_next {s t : State} {a : Half} {v : Byte} (e : exec (.hr a v) s = .next t) :
    ∃ d l, t = { s with draws := d, hostReads := l } := by
  change execHr a v s = _ at e
  unfold execHr at e
  split at e
  · rename_i x u hb
    obtain ⟨d, rfl⟩ := busRead_draws hb
    cases e
    exact ⟨d, _, rfl⟩
  · cases e

/-- In a terminal status a line other than `RESET` changes the environment's fields only, and a line other than `HW` no cell. -/
theorem exec_line_terminal {s t : State} {i : Instr} (hi : ScriptLine i) (h : s.status ≠ .running) (hreset : i ≠ .reset)
    (e : exec i s = .next t) : EnvironmentOnly s t ∧ ((∀ a v, i ≠ .hw a v) → t.shared = s.shared) := by
  cases hi with
  | hw a v =>
    obtain rfl := exec_hw_next e
    exact ⟨rfl, fun hw => absurd rfl (hw a v)⟩
  | hr a v =>
    obtain ⟨d, l, rfl⟩ := exec_hr_next e
    exact ⟨rfl, fun _ => rfl⟩
  | inp b v | cab v => cases e; exact ⟨rfl, fun _ => rfl⟩
  | tick =>
    obtain rfl := Host.Outcome.next.inj ((tickTrigger s).2 h |>.symm.trans e)
    exact ⟨rfl, fun _ => rfl⟩
  | reset => exact absurd rfl hreset

/-- Settles O51: the trigger is ignored, and of the six lines only `RESET` touches more than the environment. -/
theorem terminalIsSticky : Obligations.TerminalIsSticky := by
  intro s t h e hreset
  rcases step_outside_slot (.inl h) e with rfl | ⟨i, line, rest, hline, hscript, e⟩
  · rw [trigger_terminal h]
    exact ⟨rfl, fun _ => rfl⟩
  · have hne : i ≠ .reset := by
      rintro rfl
      cases hline
      exact hreset rest hscript
    obtain ⟨henv, hshared⟩ := exec_line_terminal (scriptLine_of_encode hline) (s := { s with script := rest }) h hne e
    refine ⟨henv, fun hnowrite => hshared ?_⟩
    rintro a v rfl
    cases hline
    exact hnowrite _ hscript

/-! ### The reset watcher (rules R195, R196) -/

theorem runSlot_restartNow (n : Fin 21) (s : State) : runSlot n restartNow s = .next s.restart :=
  runSlot_of_error n restartNow s _ .restarted (run_restartNow { s with pc := .slot n })

/-- Settles O40: behind the trigger value the slot is the restart, as its command's row is; any other value leaves nothing. -/
theorem resetWatcher : Obligations.ResetWatcher := by
  intro s hq hv
  have hslot : exec .rstw s = runSlot 19 (afterRead s.cfg (s.shared.get s.cfg.aResetCmd) .resetCmd) s :=
    exec_slotOfCell hq hv (cell := .resetCmd) rfl nofun
  refine ⟨fun htrigger => ⟨s.restart, ?_, resetFrom_restart s⟩, fun hother => ?_,
    s.restart, runSlot_restartNow 19 s, resetFrom_restart s⟩
  · rw [hslot, afterRead, if_pos htrigger, runSlot_restartNow]
  · exact exec_noOperation hq hv (cell := .resetCmd) rfl nofun (if_neg hother)

/-! ### The input relay in a quiet state (rules R84, R85) -/

/-- One bank of the relay samples a byte into its register and its mirror. -/
theorem run_relayBank {s : State} (hq : s.Quiet) (hv : s.cfg.Valid) (b : Fin 4) :
    ∃ w d, (relayBank b).run s = .ok () { s with
      draws := d, bank := s.bank.set b w, shared := s.shared.put s.cfg.aBankMirror[b] w } := by
  obtain ⟨w, d, hsample, -⟩ := sampleBank_held s b
  have hread := run_memRead_input s b hq.1 hq.2
  rw [hsample] at hread
  have hwrite := run_memWrite_quiet { s with draws := d, bank := s.bank.set b w } s.cfg.aBankMirror[b] w hq.1 hq.2
    (hv.inShared_addr (.bankMirror b))
  exact ⟨w, d, by simp only [relayBank, run_bind, run_reg, hread, run_update, hwrite]⟩

/-- A sample of the cabinet byte counts a draw at most (rule R32). -/
theorem sampleCab_draws (s : State) : ∃ v d, s.sampleCab = (v, { s with draws := d }) := by
  unfold State.sampleCab
  split
  · exact ⟨_, s.draws, rfl⟩
  · exact ⟨_, s.draws + 1, rfl⟩

/-- The states of slot 1 in which the banks in `done` have been relayed and all else is as in `base`. -/
inductive Relaying (base : State) (done : List (Fin 4)) : State → Prop
  | intro (w : Vector Byte 4) (m : Memory) (d : Nat)
      (hdone : ∀ b ∈ done, m.get base.cfg.aBankMirror[b] = w[b])
      (hothers : ∀ a, (∀ b : Fin 4, a ≠ base.cfg.aBankMirror[b]) → m.get a = base.shared.get a) :
      Relaying base done { base with bank := w, shared := m, draws := d }

theorem relaying_start (s : State) : Relaying s [] s := .intro s.bank s.shared s.draws nofun fun _ _ => rfl

theorem completes_relayBank {base : State} (hq : base.Quiet) (hv : base.cfg.Valid) {done : List (Fin 4)} (b : Fin 4) :
    Completes (Relaying base done) (relayBank b) fun _ => Relaying base (b :: done) := by
  rintro _ ⟨w, m, d, hdone, hothers⟩
  obtain ⟨x, d', e⟩ := run_relayBank (s := { base with bank := w, shared := m, draws := d }) hq hv b
  rw [e]
  refine .intro (w.set b x) (m.put base.cfg.aBankMirror[b] x) d' (fun c hc => ?_) fun a ha => ?_
  · by_cases hcb : c = b
    · subst hcb
      rw [Memory.get_put_self]
      exact (Vector.getElem_set_self c.isLt).symm
    · have hmirror : base.cfg.aBankMirror[c] ≠ base.cfg.aBankMirror[b] := fun he =>
        hcb (PlainCell.bankMirror.inj (hv.addr_inj (x := .bankMirror c) (y := .bankMirror b) he))
      rw [Memory.get_put_of_ne _ _ hmirror, hdone c ((List.mem_cons.mp hc).resolve_left hcb)]
      exact (Vector.getElem_set_ne b.isLt c.isLt fun he => hcb (Fin.ext he.symm)).symm
  · rw [Memory.get_put_of_ne _ _ (ha b), hothers a ha]

/-- The four banks in their order (rule R84). -/
theorem completes_relayBanks {base : State} (hq : base.Quiet) (hv : base.cfg.Valid) :
    Completes (· = base) (do relayBank 0; relayBank 1; relayBank 2; relayBank 3) fun _ => Relaying base [3, 2, 1, 0] := by
  refine triple_bind (Q := fun _ => Relaying base [0]) ?_ fun _ => triple_bind (completes_relayBank hq hv 1) fun _ =>
    triple_bind (completes_relayBank hq hv 2) fun _ => completes_relayBank hq hv 3
  rintro _ rfl
  exact completes_relayBank hq hv 0 _ (relaying_start _)

/-- The relay's slot leaves the five sampled bytes in their registers and their mirrors. -/
theorem exec_inrel {s : State} (hq : s.Quiet) (hv : s.cfg.Valid) : ∃ v w m d,
    exec .inrel s = .next { s with pc := .slot 2, cabLatch := v, bank := w, shared := m, draws := d } ∧
    m.get s.cfg.aCabMirror = v ∧ (∀ b : Fin 4, m.get s.cfg.aBankMirror[b] = w[b]) ∧
    ∀ a, a ≠ s.cfg.aCabMirror → (∀ b : Fin 4, a ≠ s.cfg.aBankMirror[b]) → m.get a = s.shared.get a := by
  obtain ⟨v, d, hsample⟩ := sampleCab_draws { s with pc := .slot 1 }
  have hcab := run_readCab_quiet { s with pc := .slot 1 } hq.1
  rw [hsample] at hcab
  have hwrite := run_memWrite_quiet { s with pc := .slot 1, draws := d, cabLatch := v } s.cfg.aCabMirror v hq.1 hq.2
    (hv.inShared_addr .cabMirror)
  have hbanks : exec .inrel s = runSlot 1 (do relayBank 0; relayBank 1; relayBank 2; relayBank 3)
      { s with draws := d, cabLatch := v, shared := s.shared.put s.cfg.aCabMirror v } := by
    show runSlot 1 inputRelayOp s = _
    simp only [runSlot, inputRelayOp, run_bind, run_reg, hcab, run_update, hwrite]
  obtain ⟨_, ⟨w, m, d', hdone, hothers⟩, e⟩ := runSlot_of_completes (s := { s with
    draws := d, cabLatch := v, shared := s.shared.put s.cfg.aCabMirror v }) (completes_relayBanks hq hv)
  have hmirror (b : Fin 4) : s.cfg.aCabMirror ≠ s.cfg.aBankMirror[b] :=
    (hv.addr_eq .cabMirror (.bankMirror b)).not.mpr nofun
  refine ⟨v, w, m, d', hbanks.trans e, ?_, fun b => hdone b (by fin_cases b <;> decide), fun a hc hb => ?_⟩
  · exact (hothers _ hmirror).trans (Memory.get_put_self _ _ _)
  · exact (hothers a hb).trans (Memory.get_put_of_ne _ _ hc)

/-! ### Pieces of the first tick (rule R233) -/

theorem creepSlot_val (k : Fin 4) : (creepSlot k).val = 9 + k.val := rfl

/-- Under the reference configuration the byte 0 in a command cell leaves its slot nothing to do; for a controller the gate's
byte decides (rules R70, R128). -/
theorem afterRead_zero {cell : CmdCell} (h : ∀ c, cell ≠ .ctrlCmd c) : afterRead Cfg.ref 0 cell = pure () := by
  cases cell with
  | ctrlCmd c => exact absurd rfl (h c)
  | irqMarker | lockCmd | ctrlGate c | mischiefEn | xlStatus t | resetCmd | delayMarker => rfl

theorem emitted_cursor_ne (s : State) {k j : Fin 4} (i v : Byte) (h : j ≠ k) :
    (s.emitted k i v).creepIdx[j] = s.creepIdx[j] :=
  Vector.getElem_set_ne k.isLt j.isLt fun e => h (Fin.ext e.symm)

/-- With the previous bits clear no signal can fall (rule R100). -/
theorem not_fell_of_prev {s : State} (h : s.prev = #v[false, false, false]) (j : Fin 3) : ¬ s.Fell j := by
  rintro ⟨hset, -⟩
  rw [h] at hset
  fin_cases j <;> cases hset

theorem ledgerAfterLines_of_none {s : State} (h : ∀ j, ¬ s.Fell j) : s.ledgerAfterLines = s.ledger :=
  calc s.ledgerAfterLines = s.ledgerAfterCoins := ledgerAfterLines_of_not_fell (h 2)
    _ = s.ledgerAfterCoinA := if_neg (h 1)
    _ = s.ledger := if_neg (h 0)

/-! ### The state before each slot of the first tick (rule R233) -/

/-- The slots of the first tick that do more than move `pc` on: the input relay, the credit tracker (whose threshold drives
the lockout), the creepers, the extend rotator. -/
def workingSlots : List Nat := [1, 2, 9, 10, 11, 12, 15]

/-- The slot counter before slot `n`, `IDLE` for every `n` past the last. -/
def pcBefore (n : Nat) : Pc := if h : n < 21 then .slot ⟨n, h⟩ else .idle

theorem nextPc_eq_pcBefore (n : Fin 21) : nextPc n = pcBefore (n + 1) := rfl

theorem pcBefore_val (n : Fin 21) : pcBefore n = .slot n := dif_pos n.isLt

/-- The state `s` before slot `n` of the first tick after reset; `n = 21` is the end of the tick. -/
structure FirstTickAt (n : Nat) (s : State) : Prop where
  quiet : s.Quiet
  cfg : s.cfg = Cfg.ref
  status : s.status = .running
  pc : s.pc = pcBefore n
  prev : n ≤ 2 → s.prev = #v[false, false, false]
  trace : s.trace = if n ≤ 2 then [] else [(.lockout, false)]
  creepIdx : ∀ k : Fin 4, s.creepIdx[k] = if n ≤ creepSlot k then 0 else 1
  creepTable : s.creepTable = #v[0, 0, 0, 0]
  ctrlCache : s.ctrlCache = #v[0, 0, 0]
  partialCoins : s.partialCoins = #v[0, 0]
  extend : s.shared.get s.cfg.aExtend = if n ≤ 15 then 0 else 1
  cabMirror : 1 < n → s.shared.get s.cfg.aCabMirror = s.cabLatch
  bankMirror : 1 < n → ∀ b : Fin 4, s.shared.get s.cfg.aBankMirror[b] = s.bank[b]
  blank : ∀ a, a ≠ s.cfg.aExtend → a ≠ s.cfg.aCabMirror → (∀ b : Fin 4, a ≠ s.cfg.aBankMirror[b]) →
    s.shared.get a = 0

namespace FirstTickAt

theorem start : FirstTickAt 0 { State.reset with pc := .slot 0 } where
  quiet := ⟨rfl, .inl rfl⟩
  cfg := rfl
  status := rfl
  pc := rfl
  prev _ := rfl
  trace := rfl
  creepIdx := by decide
  creepTable := rfl
  ctrlCache := rfl
  partialCoins := rfl
  extend := rfl
  cabMirror h := absurd h (by decide)
  bankMirror h := absurd h (by decide)
  blank _ _ _ _ := rfl

section
variable {s : State} {n : Nat}

theorem valid (h : FirstTickAt n s) : s.cfg.Valid := h.cfg ▸ Cfg.valid_ref

/-- Every named cell but the mirrors and the rotator's reads as 0. -/
theorem read_zero (h : FirstTickAt n s) {x : PlainCell} (hx : x ≠ .extend) (hc : x ≠ .cabMirror)
    (hb : ∀ b, x ≠ .bankMirror b) : s.shared.get (s.cfg.addr x) = 0 :=
  h.blank _ (fun e => hx (h.valid.addr_inj (y := .extend) e)) (fun e => hc (h.valid.addr_inj (y := .cabMirror) e))
    fun b e => hb b (h.valid.addr_inj (y := .bankMirror b) e)

theorem read_zero_cmd (h : FirstTickAt n s) (cell : CmdCell) : s.shared.get (cellAddr s.cfg cell) = 0 := by
  cases cell with
  | irqMarker => exact h.read_zero (x := .irqMarker) nofun nofun nofun
  | lockCmd => exact h.read_zero (x := .lockCmd) nofun nofun nofun
  | ctrlCmd c => exact h.read_zero (x := .ctrlCmd c) nofun nofun nofun
  | ctrlGate c =>
    exact h.blank _ (h.valid.gate_ne c .extend) (h.valid.gate_ne c .cabMirror) fun b => h.valid.gate_ne c (.bankMirror b)
  | mischiefEn => exact h.read_zero (x := .mischiefEn) nofun nofun nofun
  | xlStatus t => exact h.read_zero (x := .xlStatus t) nofun nofun nofun
  | resetCmd => exact h.read_zero (x := .resetCmd) nofun nofun nofun
  | delayMarker => exact h.read_zero (x := .delayMarker) nofun nofun nofun

end

/-! ### The slots that find nothing to do -/

variable {s : State}

/-- A slot that only moves `pc` on leaves what stands before the next one. -/
theorem idle {n : Nat} (h : FirstTickAt n s) (hn : n ∉ workingSlots) :
    FirstTickAt (n + 1) { s with pc := pcBefore (n + 1) } := by
  simp only [workingSlots, List.mem_cons, List.not_mem_nil, or_false, not_or] at hn
  obtain ⟨h1, h2, h9, h10, h11, h12, h15⟩ := hn
  have hcreep (k : Fin 4) : n + 1 ≤ creepSlot k ↔ n ≤ creepSlot k := by
    have := creepSlot_val k
    omega
  exact {
    quiet := h.quiet, cfg := h.cfg, status := h.status, pc := rfl
    prev := fun hle => h.prev (by omega)
    trace := h.trace.trans (if_congr (by omega) rfl rfl)
    creepIdx := fun k => (h.creepIdx k).trans (if_congr (hcreep k).symm rfl rfl)
    creepTable := h.creepTable, ctrlCache := h.ctrlCache, partialCoins := h.partialCoins
    extend := h.extend.trans (if_congr (by omega) rfl rfl)
    cabMirror := fun hlt => h.cabMirror (by omega)
    bankMirror := fun hlt => h.bankMirror (by omega)
    blank := h.blank }

/-- In an idle slot that only moves `pc` on the step leads to the next slot. -/
theorem step_idle {n : Fin 21} (h : FirstTickAt n s) (hn : n.val ∉ workingSlots)
    (e : runSlot n slotOps[n] s = .next { s with pc := nextPc n }) : ∃ t, step s = .next t ∧ FirstTickAt (n + 1) t := by
  rw [nextPc_eq_pcBefore] at e
  exact ⟨_, (step_slot h.status (h.pc.trans (pcBefore_val n))).trans e, h.idle hn⟩

/-- The slot of a command cell finds the byte 0 (rules R62, R63). -/
theorem step_cmd {cell : CmdCell} (h : FirstTickAt (cellSlot cell) s) (hc : ∀ c, cell ≠ .ctrlCmd c)
    (hn : (cellSlot cell).val ∉ workingSlots) : ∃ t, step s = .next t ∧ FirstTickAt (cellSlot cell + 1) t := by
  refine h.step_idle hn ?_
  have hnone : afterRead s.cfg 0 cell = pure () := h.cfg ▸ afterRead_zero hc
  rw [runSlot_cellSlot h.quiet h.valid cell fun c _ => h.read_zero_cmd (.ctrlCmd c), h.read_zero_cmd, hnone, runSlot_pure]

/-- A beastie relay finds its player dead (rule R151). -/
theorem step_beastie {p : Fin 2} (h : FirstTickAt (beastSlot p) s) :
    ∃ t, step s = .next t ∧ FirstTickAt (beastSlot p + 1) t := by
  have hop : slotOps[beastSlot p] = beastieRelay p := by fin_cases p <;> rfl
  have hlive : s.shared.get s.cfg.aPLive[p] = 0 := h.read_zero (x := .pLive p) nofun nofun nofun
  have hguard : ¬ Alive s.cfg 0 := fun halive => halive (BitVec.zero_and ..)
  refine h.step_idle (by fin_cases p <;> decide) ?_
  rw [hop, runSlot_beastieRelay h.quiet h.valid, hlive, if_neg hguard, runSlot_pure]

/-- The clock is inactive (rule R170). -/
theorem step_clock (h : FirstTickAt 13 s) : ∃ t, step s = .next t ∧ FirstTickAt 14 t :=
  h.step_idle (n := 13) (by decide)
    (exec_clock_inactive h.quiet h.valid (h.read_zero (x := .clkActive) nofun nofun nofun))

/-! ### The slots at work -/

/-- The relay makes the mirrors equal to the registers (rule R84). -/
theorem step_inrel (h : FirstTickAt 1 s) : ∃ t, step s = .next t ∧ FirstTickAt 2 t := by
  obtain ⟨v, w, m, d, e, hcab, hbank, hothers⟩ := exec_inrel h.quiet h.valid
  have hextend : m.get s.cfg.aExtend = s.shared.get s.cfg.aExtend :=
    hothers _ ((h.valid.addr_eq .extend .cabMirror).not.mpr nofun) fun b =>
      (h.valid.addr_eq .extend (.bankMirror b)).not.mpr nofun
  refine ⟨_, (stepRunsSlot s 1 .inrel h.status h.pc rfl).trans e, ?_⟩
  exact { h with
    pc := rfl
    prev := fun _ => h.prev (by decide)
    creepIdx := fun k => (h.creepIdx k).trans (by fin_cases k <;> rfl)
    extend := hextend.trans h.extend
    cabMirror := fun _ => hcab
    bankMirror := fun _ => hbank
    blank := fun a hx hc hb => (hothers a hc hb).trans (h.blank a hx hc hb) }

/-- No signal can fall, and the threshold finds no credits: one drive, to 0 (rules R100, R108). -/
theorem step_credit (h : FirstTickAt 2 s) : ∃ t, step s = .next t ∧ FirstTickAt 3 t := by
  have hphony : s.ledger.phony = 0 := h.read_zero (x := .phony) nofun nofun nofun
  obtain ⟨m, l, d, e, hl, -, hd, hm, -, hm', hothers⟩ := creditSlot s h.quiet h.valid
  have hfell := not_fell_of_prev (h.prev (by decide))
  rw [ledgerAfterLines_of_none hfell] at e hl hm hm'
  obtain rfl : d = [] := hd fun hat => hfell 2 hat.1
  obtain rfl : l = false := by
    rw [hphony, h.cfg] at hl
    exact Bool.eq_false_iff.mpr fun hl' => absurd (hl.mp hl') (by decide)
  have hkeep (a : Nat) : m.get a = s.shared.get a := by
    by_cases hp : a = s.cfg.aPhony
    · exact hp ▸ hm
    · by_cases hc : a = s.cfg.aChanged
      · exact hc ▸ hm' rfl
      · exact hothers a hp hc
  refine ⟨_, (stepRunsSlot s 2 .credit h.status h.pc rfl).trans e, ?_⟩
  exact { h with
    pc := rfl
    prev := fun hle => absurd hle (by decide)
    trace := congrArg (· ++ [] ++ [(Port.lockout, false)]) h.trace
    creepIdx := fun k => (h.creepIdx k).trans (by fin_cases k <;> rfl)
    extend := (hkeep _).trans h.extend
    cabMirror := fun _ => (hkeep _).trans (h.cabMirror (by decide))
    bankMirror := fun _ b => (hkeep _).trans (h.bankMirror (by decide) b)
    blank := fun a hx hc hb => (hkeep a).trans (h.blank a hx hc hb) }

/-- Creeper `k` emits the entry 0 of table 0, which is 0 (rules R142, R146). -/
theorem step_creeper {k : Fin 4} (h : FirstTickAt (creepSlot k) s) :
    ∃ t, step s = .next t ∧ FirstTickAt (creepSlot k + 1) t := by
  have hop : slotOps[creepSlot k] = creeper k := by fin_cases k <;> rfl
  have hcursor : s.creepIdx[k] = 0 := (h.creepIdx k).trans (if_pos le_rfl)
  have htable : s.cfg.creepTables[s.creepTable[k].toNat]? = some (Cfg.refCreeper 0) := by
    rw [h.cfg, h.creepTable]
    fin_cases k <;> rfl
  have hentry : (Cfg.refCreeper 0)[s.creepIdx[k].toNat]? = some 0 := by
    rw [hcursor]
    rfl
  have e : step s = .next (s.emitted k 0 0) := by
    rw [step_slot h.status (h.pc.trans (pcBefore_val _)), hop, runSlot_creeper_inside h.quiet h.valid htable hentry, hcursor]
  have hkeep {x : PlainCell} (hx : x ≠ .creepOut k) :
      (s.emitted k 0 0).shared.get (s.cfg.addr x) = s.shared.get (s.cfg.addr x) :=
    emitted_frame s k 0 0 ((h.valid.addr_eq x (.creepOut k)).not.mpr hx)
  have hk := creepSlot_val k
  refine ⟨_, e, ?_⟩
  exact { h with
    pc := (nextPc_creepSlot k).symm
    prev := fun hle => absurd hle (by omega)
    trace := h.trace.trans (if_congr (by omega) rfl rfl)
    creepIdx := fun j => by
      by_cases hj : j = k
      · subst hj
        exact (emitted_cursor s j 0 0).trans (if_neg (by omega)).symm
      · have hslot : creepSlot k ≤ (creepSlot j).val ↔ creepSlot k + 1 ≤ (creepSlot j).val := by
          have := creepSlot_val j
          omega
        exact (emitted_cursor_ne s 0 0 hj).trans ((h.creepIdx j).trans (if_congr hslot rfl rfl))
    extend := (hkeep (x := .extend) nofun).trans (h.extend.trans (if_congr (by omega) rfl rfl))
    cabMirror := fun _ => (hkeep (x := .cabMirror) nofun).trans (h.cabMirror (by omega))
    bankMirror := fun _ b => (hkeep (x := .bankMirror b) nofun).trans (h.bankMirror (by omega) b)
    blank := fun a hx hc hb => by
      by_cases ha : a = s.cfg.aCreepOut[k]
      · exact ha ▸ emitted_output s k 0 0
      · exact (emitted_frame s k 0 0 ha).trans (h.blank a hx hc hb) }

/-- The rotator goes from 0 to 1 (rule R177). -/
theorem step_extend (h : FirstTickAt 15 s) : ∃ t, step s = .next t ∧ FirstTickAt 16 t := by
  have hnext : extendNext s.cfg (s.shared.get s.cfg.aExtend) = 1 := by
    rw [h.extend, h.cfg]
    rfl
  have e := exec_extend h.quiet h.valid
  rw [hnext] at e
  have hkeep {a : Nat} (ha : a ≠ s.cfg.aExtend) : (s.shared.put s.cfg.aExtend 1).get a = s.shared.get a :=
    Memory.get_put_of_ne _ _ ha
  refine ⟨_, (stepRunsSlot s 15 .extend h.status h.pc rfl).trans e, ?_⟩
  exact { h with
    pc := rfl
    prev := fun hle => absurd hle (by decide)
    creepIdx := fun k => (h.creepIdx k).trans (by fin_cases k <;> rfl)
    extend := Memory.get_put_self s.shared s.cfg.aExtend 1
    cabMirror := fun _ => (hkeep ((h.valid.addr_eq .cabMirror .extend).not.mpr nofun)).trans (h.cabMirror (by decide))
    bankMirror := fun _ b =>
      (hkeep ((h.valid.addr_eq (.bankMirror b) .extend).not.mpr nofun)).trans (h.bankMirror (by decide) b)
    blank := fun a hx hc hb => (hkeep hx).trans (h.blank a hx hc hb) }

/-- Every slot of the first tick leads to the next. -/
theorem step_next {n : Fin 21} (h : FirstTickAt n s) : ∃ t, step s = .next t ∧ FirstTickAt (n + 1) t :=
  match n with
  | 0 => h.step_cmd (cell := .irqMarker) nofun (by decide)
  | 1 => h.step_inrel
  | 2 => h.step_credit
  | 3 => h.step_cmd (cell := .lockCmd) nofun (by decide)
  | 4 => h.step_cmd (cell := .ctrlGate 0) nofun (by decide)
  | 5 => h.step_cmd (cell := .ctrlGate 1) nofun (by decide)
  | 6 => h.step_cmd (cell := .ctrlGate 2) nofun (by decide)
  | 7 => h.step_beastie (p := 0)
  | 8 => h.step_beastie (p := 1)
  | 9 => h.step_creeper (k := 0)
  | 10 => h.step_creeper (k := 1)
  | 11 => h.step_creeper (k := 2)
  | 12 => h.step_creeper (k := 3)
  | 13 => h.step_clock
  | 14 => h.step_cmd (cell := .mischiefEn) nofun (by decide)
  | 15 => h.step_extend
  | 16 => h.step_cmd (cell := .xlStatus 0) nofun (by decide)
  | 17 => h.step_cmd (cell := .xlStatus 1) nofun (by decide)
  | 18 => h.step_cmd (cell := .xlStatus 2) nofun (by decide)
  | 19 => h.step_cmd (cell := .resetCmd) nofun (by decide)
  | 20 => h.step_cmd (cell := .delayMarker) nofun (by decide)
  | ⟨j + 21, hj⟩ => absurd hj (by omega)

/-- The rest of the first tick, from any of its slots. -/
theorem run_rest {n k : Nat} (h : FirstTickAt n s) (hk : n + k = 21) : ∃ t, stepN k s = .next t ∧ FirstTickAt 21 t := by
  induction k generalizing n s with
  | zero => exact ⟨s, rfl, hk ▸ h⟩
  | succ k ih =>
    obtain ⟨t, e, ht⟩ := step_next (n := ⟨n, by omega⟩) h
    obtain ⟨u, eu, hu⟩ := ih (n := n + 1) ht (by omega)
    refine ⟨u, ?_, hu⟩
    rw [stepN, e]
    exact eu

end FirstTickAt

/-- Settles O44: the trigger starts the tick, and what stands before slot 21 is what the statement says. -/
theorem firstTick : Obligations.FirstTick := by
  have htrigger : step State.reset = .next { State.reset with pc := .slot 0 } := (stepFreeRuns State.reset rfl).1 rfl rfl
  obtain ⟨t, e, ht⟩ := FirstTickAt.start.run_rest (k := 21) rfl
  have hrun : stepN 22 State.reset = .next t := by
    rw [stepN, htrigger]
    exact e
  have hcursor : t.creepIdx = #v[1, 1, 1, 1] := by
    apply Vector.ext
    intro j hj
    refine (ht.creepIdx ⟨j, hj⟩).trans ?_
    interval_cases j <;> rfl
  refine ⟨t, hrun, ht.status, ht.pc, ht.trace, hcursor, ht.creepTable, ht.ctrlCache, ht.partialCoins, ?_⟩
  rw [← ht.cfg]
  exact ⟨ht.extend, ht.cabMirror (by decide), ht.bankMirror (by decide), ht.blank⟩

end Sys2Proof.Machine

/-!
PROOFS. The slots that a cold reset may cut short, and what follows for a slot that none does. `Orderly` says of a piece of a
slot to which cells it stores, and in which order; how it can end; and what a cold reset inside it finds: a state on the way
from the piece's start to its end. It holds of every slot, whatever the configuration and the environment; where the
configuration is valid and no race is on (the premise `K`), the order of the stores says what `Shared` holds on the way.
-/

namespace Sys2Proof.Machine

/-! ### Where a cold reset strikes (rule R231) -/

/-- `s` with a cold reset due before access number `j` from now, and the resets `later` after it. -/
def State.due (s : State) (j : Nat) (later : List Nat) : State := { s with coldResets := j :: later }

/-- What a cold reset leaves of `s`, the resets `later` still to come. -/
def State.struck (s : State) (later : List Nat) : State := ({ s with coldResets := later } : State).restart

theorem due_of_coldResets {s : State} {j : Nat} {later : List Nat} (h : s.coldResets = j :: later) :
    ({ s with coldResets := [] } : State).due j later = s := by
  rw [State.due, ← h]

/-- A cold reset due in `m` from `s` falls behind `m`, which runs as without it, or it strikes in a state with `C`. -/
def CutWithin {α : Type} (m : SlotM α) (s : State) (C : State → Prop) : Prop :=
  ∀ j later, (∃ k, k ≤ j ∧ m.run (s.due j later) = mapEnd (·.due (j - k) later) (m.run s)) ∨
    ∃ u, C u ∧ m.run (s.due j later) = .error .restarted (u.struck later)

section
variable {α β : Type} {s : State} {C : State → Prop}

theorem CutWithin.mono {C' : State → Prop} {m : SlotM α} (h : CutWithin m s C) (hC : ∀ u, C u → C' u) :
    CutWithin m s C' := fun j later => (h j later).imp_right fun ⟨u, hu, e⟩ => ⟨u, hC u hu, e⟩

/-- A piece without an access point leaves the countdown where it is. -/
theorem cutWithin_of_blind {m : SlotM α} (h : ∀ j later, m.run (s.due j later) = mapEnd (·.due j later) (m.run s)) :
    CutWithin m s C := fun j later => .inl ⟨0, j.zero_le, h j later⟩

theorem cutWithin_coldResetPoint (hs : s.coldResets = []) (h : C s) : CutWithin coldResetPoint s C := by
  rintro (_ | j) later
  · exact .inr ⟨s, h, rfl⟩
  · refine .inl ⟨1, Nat.le_add_left 1 j, ?_⟩
    rw [run_coldResetPoint_quiet s hs]
    rfl

theorem cutWithin_bind {m : SlotM α} {f : α → SlotM β} (hm : CutWithin m s C)
    (hf : ∀ a t, m.run s = .ok a t → CutWithin (f a) t C) : CutWithin (m >>= f) s C := by
  intro j later
  rw [run_bind, run_bind]
  rcases hm j later with ⟨k, hk, e⟩ | ⟨u, hu, e⟩
  · rw [e]
    cases hrun : m.run s with
    | error x t => exact .inl ⟨k, hk, rfl⟩
    | ok a t =>
      rcases hf a t hrun (j - k) later with ⟨k', hk', e'⟩ | ⟨u, hu, e'⟩
      · refine .inl ⟨k + k', by omega, ?_⟩
        rw [← Nat.sub_sub]
        exact e'
      · exact .inr ⟨u, hu, e'⟩
  · exact .inr ⟨u, hu, by rw [e]⟩

end

/-! ### On the way through a slot -/

/-- What no slot changes: the configuration and the environment, but for the schedules and the draws. -/
def State.outside (s : State) : Cfg × Vector (Option Byte) 4 × Option Byte × List Byte × List HostRead :=
  (s.cfg, s.heldBank, s.heldCab, s.script, s.hostReads)

/-- From `s` a slot has got to `t`: drives were added to the trace and, under `K`, stores were made to `cells` at most. -/
structure Onward (K : Prop) (cells : List Nat) (s t : State) : Prop where
  outside : t.outside = s.outside
  cold : t.coldResets = s.coldResets
  trace : s.trace <+: t.trace
  calm : K → t.hostRace = s.hostRace
  kept : K → ∀ a, a ∉ cells → t.shared.get a = s.shared.get a

/-- How a piece of slot `n` can end, begun in `s`: it completes, or stops the CORE, or it is the reset watcher's restart. -/
def Ends {α : Type} (n : Fin 21) (K : Prop) (cells : List Nat) (s : State) : EStateM.Result Stop State α → Prop
  | .ok _ t => Onward K cells s t
  | .error .terminal t => Onward K cells s t ∧ t.status ≠ .running
  | .error .restarted t => n = 19 ∧ t.pc = .idle ∧ s.trace <+: t.trace

/-- `u` lies on the way from `s` to the end `r`: the stores to `cells` have been made up to some point of the list. -/
def OnTheWay {α : Type} (n : Fin 21) (K : Prop) (cells : List Nat) (s : State) (r : EStateM.Result Stop State α)
    (u : State) : Prop :=
  ∃ made left, cells = made ++ left ∧ Onward K made s u ∧ Ends n K left u r

/-- Begun in `s`, the piece `m` of slot `n` stores to `cells` at most, in their order, and a cold reset strikes on the way, in
a state with `D`. -/
def OrderlyFrom {α : Type} (n : Fin 21) (K : Prop) (D : State → Prop) (cells : List Nat) (m : SlotM α) (s : State) : Prop :=
  Ends n K cells s (m.run s) ∧ CutWithin m s fun u => OnTheWay n K cells s (m.run s) u ∧ D u

/-- Slot states under the configuration `c`: no cold reset is due and, under `K`, no race is on. -/
structure Underway (K : Prop) (c : Cfg) (s : State) : Prop where
  cfg : s.cfg = c
  cold : s.coldResets = []
  calm : K → c.hostInterleave = false ∨ s.hostRace = []

/-- The piece `m` of slot `n` is orderly from every slot state. -/
abbrev Orderly {α : Type} (n : Fin 21) (K : Prop) (c : Cfg) (cells : List Nat) (m : SlotM α) : Prop :=
  ∀ s, Underway K c s → OrderlyFrom n K (fun _ => True) cells m s

section
variable {α β : Type} {n : Fin 21} {K : Prop} {c : Cfg} {cells cells' : List Nat} {D : State → Prop} {s t u : State}

theorem Onward.refl (s : State) : Onward K cells s s := ⟨rfl, rfl, List.prefix_rfl, fun _ => rfl, fun _ _ _ => rfl⟩

theorem Onward.trans (h : Onward K cells s t) (h' : Onward K cells' t u) : Onward K (cells ++ cells') s u where
  outside := h'.outside.trans h.outside
  cold := h'.cold.trans h.cold
  trace := h.trace.trans h'.trace
  calm hK := (h'.calm hK).trans (h.calm hK)
  kept hK a ha := by
    obtain ⟨hfirst, hsecond⟩ := not_or.mp (List.mem_append.not.mp ha)
    exact (h'.kept hK a hsecond).trans (h.kept hK a hfirst)

theorem Onward.mono (h : Onward K cells s t) (hsub : ∀ a ∈ cells, a ∈ cells') : Onward K cells' s t where
  outside := h.outside
  cold := h.cold
  trace := h.trace
  calm := h.calm
  kept hK a ha := h.kept hK a fun hmem => ha (hsub a hmem)

theorem Onward.underway (h : Onward K cells s t) (hs : Underway K c s) : Underway K c t where
  cfg := (congrArg Prod.fst h.outside).trans hs.cfg
  cold := h.cold.trans hs.cold
  calm hK := (hs.calm hK).imp_right (h.calm hK).trans

theorem Ends.mono {r : EStateM.Result Stop State α} (h : Ends n K cells s r) (hsub : ∀ a ∈ cells, a ∈ cells') :
    Ends n K cells' s r := by
  match r with
  | .ok _ _ => exact Onward.mono h hsub
  | .error .terminal _ => exact ⟨h.1.mono hsub, h.2⟩
  | .error .restarted _ => exact h

/-- A way and the rest of it. -/
theorem Ends.after {r : EStateM.Result Stop State α} (h : Onward K cells s t) (h' : Ends n K cells' t r) :
    Ends n K (cells ++ cells') s r := by
  match r with
  | .ok _ _ => exact h.trans h'
  | .error .terminal _ =>
    obtain ⟨hon, hst⟩ := h'
    exact ⟨h.trans hon, hst⟩
  | .error .restarted _ =>
    obtain ⟨hn, hpc, htrace⟩ := h'
    exact ⟨hn, hpc, h.trace.trans htrace⟩

/-- The end of a piece and of what follows it. -/
theorem Ends.bind {m : SlotM α} {f : α → SlotM β} (hm : Ends n K cells u (m.run s))
    (hf : ∀ a t, m.run s = .ok a t → Ends n K cells' t ((f a).run t)) :
    Ends n K (cells ++ cells') u ((m >>= f).run s) := by
  rw [run_bind]
  cases e : m.run s with
  | ok a t =>
    rw [e] at hm
    exact Ends.after hm (hf a t e)
  | error x t =>
    rw [e] at hm
    match x with
    | .terminal => exact ⟨hm.1.mono fun _ => List.mem_append_left _, hm.2⟩
    | .restarted => exact hm

theorem orderlyFrom_bind {m : SlotM α} {f : α → SlotM β} (hm : OrderlyFrom n K D cells m s)
    (hf : ∀ a t, m.run s = .ok a t → OrderlyFrom n K D cells' (f a) t) :
    OrderlyFrom n K D (cells ++ cells') (m >>= f) s := by
  obtain ⟨hend, hcut⟩ := hm
  refine ⟨hend.bind fun a t e => (hf a t e).1, cutWithin_bind (hcut.mono ?_) fun a t e => (hf a t e).2.mono ?_⟩
  · rintro u ⟨⟨made, left, rfl, hu, hr⟩, hD⟩
    exact ⟨⟨made, left ++ cells', List.append_assoc _ _ _, hu, hr.bind fun a t e => (hf a t e).1⟩, hD⟩
  · rintro u ⟨⟨made, left, rfl, hu, hr⟩, hD⟩
    rw [e] at hend
    refine ⟨⟨cells ++ made, left, (List.append_assoc _ _ _).symm, hend.trans hu, ?_⟩, hD⟩
    rw [run_bind, e]
    exact hr

/-- Stores may be left out. -/
theorem orderlyFrom_sublist {m : SlotM α} (h : OrderlyFrom n K D cells m s) (hsub : cells.Sublist cells') :
    OrderlyFrom n K D cells' m s := by
  refine ⟨h.1.mono fun _ ha => hsub.subset ha, h.2.mono ?_⟩
  rintro u ⟨⟨made, left, rfl, hu, hr⟩, hD⟩
  obtain ⟨made', left', rfl, hmade, hleft⟩ := List.append_sublist_iff.mp hsub
  exact ⟨⟨made', left', rfl, hu.mono fun _ ha => hmade.subset ha, hr.mono fun _ ha => hleft.subset ha⟩, hD⟩

/-- Without `K` nothing is said of the cells. -/
theorem orderlyFrom_of_not (hK : ¬ K) {m : SlotM α} (h : OrderlyFrom n K D cells m s) : OrderlyFrom n K D cells' m s := by
  have onward {s t : State} {l l' : List Nat} (h : Onward K l s t) : Onward K l' s t :=
    ⟨h.outside, h.cold, h.trace, h.calm, fun hk => absurd hk hK⟩
  have ends {s : State} {l l' : List Nat} {r : EStateM.Result Stop State α} (h : Ends n K l s r) : Ends n K l' s r := by
    match r with
    | .ok _ _ => exact onward h
    | .error .terminal _ => exact ⟨onward h.1, h.2⟩
    | .error .restarted _ => exact h
  refine ⟨ends h.1, h.2.mono ?_⟩
  rintro u ⟨⟨made, left, -, hu, hr⟩, hD⟩
  exact ⟨⟨cells', [], (List.append_nil _).symm, onward hu, ends hr⟩, hD⟩

/-! #### The pieces -/

/-- A piece without an access point, which ends as `hend` says. -/
theorem orderly_of_blind {m : SlotM α} (hend : ∀ s, Underway K c s → Ends n K cells s (m.run s))
    (h : ∀ s j later, m.run (s.due j later) = mapEnd (·.due j later) (m.run s)) : Orderly n K c cells m :=
  fun s hs => ⟨hend s hs, cutWithin_of_blind (h s)⟩

theorem orderly_pure (a : α) : Orderly n K c cells (pure a : SlotM α) :=
  orderly_of_blind (fun s _ => Onward.refl s) fun _ _ _ => rfl

theorem orderly_raise {st : Status} (h : st ≠ .running) : Orderly n K c cells (raise st : SlotM α) :=
  orderly_of_blind (fun _ _ => ⟨⟨rfl, rfl, List.prefix_rfl, fun _ => rfl, fun _ _ _ => rfl⟩, h⟩) fun _ _ _ => rfl

theorem orderly_restartNow (hn : n = 19) : Orderly n K c cells restartNow :=
  orderly_of_blind (fun _ _ => ⟨hn, rfl, List.prefix_rfl⟩) fun _ _ _ => rfl

/-- A register write; the default proofs are for a record update of a register. -/
theorem orderly_update (f : State → State)
    (h : ∀ s, Onward K [] s (f s) := by exact fun _ => ⟨rfl, rfl, List.prefix_rfl, fun _ => rfl, fun _ _ _ => rfl⟩)
    (hd : ∀ s j later, f (s.due j later) = (f s).due j later := by intros; rfl) : Orderly n K c [] (update f) :=
  orderly_of_blind (fun s _ => h s) fun s j later => congrArg (EStateM.Result.ok ()) (hd s j later)

theorem Orderly.underway {m : SlotM α} (hm : Orderly n K c cells m) (hs : Underway K c s) {a : α} (e : m.run s = .ok a t) :
    Underway K c t := by
  obtain ⟨hend, -⟩ := hm s hs
  rw [e] at hend
  exact Onward.underway hend hs

theorem orderly_bind {m : SlotM α} {f : α → SlotM β} (hm : Orderly n K c cells m) (hf : ∀ a, Orderly n K c cells' (f a)) :
    Orderly n K c (cells ++ cells') (m >>= f) := fun s hs =>
  orderlyFrom_bind (hm s hs) fun a t e => hf a t (hm.underway hs e)

/-- What follows a piece that stores nothing. -/
theorem orderly_andThen {m : SlotM α} {f : α → SlotM β} (hm : Orderly n K c [] m) (hf : ∀ a, Orderly n K c cells (f a)) :
    Orderly n K c cells (m >>= f) :=
  orderly_bind hm hf

theorem orderly_reg {f : State → α} {g : α → SlotM β} (h : ∀ a, Orderly n K c cells (g a))
    (hd : ∀ s j later, f (s.due j later) = f s := by intros; rfl) : Orderly n K c cells (reg f >>= g) :=
  orderly_andThen (orderly_of_blind (fun s _ => Onward.refl s)
    fun s j later => congrArg (EStateM.Result.ok · (s.due j later)) (hd s j later)) h

/-- The configuration a slot reads is the one the state holds. -/
theorem orderly_cfg {f : Cfg → SlotM β} (h : Orderly n K c cells (f c)) : Orderly n K c cells (reg (·.cfg) >>= f) := by
  rintro s hs
  obtain rfl := hs.cfg
  exact h s hs

theorem orderly_ite {p : Prop} [Decidable p] {m m' : SlotM α} (h : Orderly n K c cells m) (h' : Orderly n K c cells m') :
    Orderly n K c cells (if p then m else m') := by
  split <;> assumption

theorem orderly_sublist {m : SlotM α} (h : Orderly n K c cells m) (hsub : cells.Sublist cells') :
    Orderly n K c cells' m :=
  fun s hs => orderlyFrom_sublist (h s hs) hsub

/-! #### The accesses -/

theorem orderly_coldResetPoint : Orderly n K c [] coldResetPoint := by
  intro s hs
  have hend : Ends n K [] s (coldResetPoint.run s) := by
    rw [run_coldResetPoint_quiet s hs.cold]
    exact Onward.refl s
  exact ⟨hend, cutWithin_coldResetPoint hs.cold ⟨⟨[], [], rfl, Onward.refl s, hend⟩, trivial⟩⟩

theorem orderly_hostPoint : Orderly n K c [] hostPoint := by
  refine orderly_of_blind (fun s hs => ?_) fun s j later => ?_
  · by_cases hK : K
    · rw [run_hostPoint_quiet s (hs.cfg ▸ hs.calm hK)]
      exact Onward.refl s
    · obtain ⟨r, ws, -, e⟩ := hostPoint_cases s
      rw [e]
      exact ⟨rfl, rfl, List.prefix_rfl, fun h => absurd h hK, fun h => absurd h hK⟩
  · show hostPoint (s.due j later) = mapEnd _ (hostPoint s)
    have hcfg : (s.due j later).cfg = s.cfg := rfl
    have hrace : (s.due j later).hostRace = s.hostRace := rfl
    simp only [hostPoint, hcfg, hrace]
    split
    · split <;> rfl
    · rfl

theorem sampleBank_due (s : State) (b : Fin 4) (j : Nat) (later : List Nat) :
    (s.due j later).sampleBank b = ((s.sampleBank b).1, (s.sampleBank b).2.due j later) := by
  have hb : (s.due j later).heldBank = s.heldBank := rfl
  unfold State.sampleBank
  rw [hb]
  split <;> rfl

theorem sampleCab_due (s : State) (j : Nat) (later : List Nat) :
    (s.due j later).sampleCab = (s.sampleCab.1, s.sampleCab.2.due j later) := by
  have hb : (s.due j later).heldCab = s.heldCab := rfl
  unfold State.sampleCab
  rw [hb]
  split <;> rfl

theorem busRead_due (s : State) (a : Nat) (j : Nat) (later : List Nat) :
    (s.due j later).busRead a = (s.busRead a).map fun r => (r.1, r.2.due j later) := by
  unfold State.busRead
  split
  · rw [sampleBank_due]; rfl
  · split <;> rfl

theorem orderly_readNow (a : Nat) : Orderly n K c [] (readNow a) := by
  refine orderly_of_blind (fun s _ => ?_) fun s j later => ?_
  · rw [run_readNow]
    cases e : s.busRead a with
    | none => exact ⟨⟨rfl, rfl, List.prefix_rfl, fun _ => rfl, fun _ _ _ => rfl⟩, nofun⟩
    | some r =>
      obtain ⟨v, t⟩ := r
      obtain ⟨d, rfl⟩ := busRead_draws e
      exact ⟨rfl, rfl, List.prefix_rfl, fun _ => rfl, fun _ _ _ => rfl⟩
  · rw [run_readNow, run_readNow, busRead_due]
    cases s.busRead a <;> rfl

theorem orderly_writeNow (a : Nat) (v : Byte) : Orderly n K c [a] (writeNow a v) := by
  refine orderly_of_blind (fun s _ => ?_) fun s j later => ?_
  · rw [run_writeNow]
    by_cases ha : InShared a
    · rw [busWrite_shared s ha]
      refine ⟨rfl, rfl, List.prefix_rfl, fun _ => rfl, fun _ b hb => ?_⟩
      exact (Memory.get_put _ _ _ _).trans (if_neg (List.ne_of_not_mem_cons hb))
    · rw [busWrite_outside s ha]
      exact ⟨⟨rfl, rfl, List.prefix_rfl, fun _ => rfl, fun _ _ _ => rfl⟩, nofun⟩
  · rw [run_writeNow, run_writeNow]
    by_cases ha : InShared a
    · rw [busWrite_shared s ha, busWrite_shared _ ha]
      rfl
    · rw [busWrite_outside s ha, busWrite_outside _ ha]
      rfl

theorem orderly_readCabNow : Orderly n K c [] readCabNow := by
  refine orderly_of_blind (fun s _ => ?_) fun s j later => ?_
  · obtain ⟨v, d, e⟩ := sampleCab_draws s
    rw [run_readCabNow, e]
    exact ⟨rfl, rfl, List.prefix_rfl, fun _ => rfl, fun _ _ _ => rfl⟩
  · rw [run_readCabNow, run_readCabNow, sampleCab_due]
    rfl

theorem orderly_memRead (a : Nat) : Orderly n K c [] (memRead a) :=
  orderly_andThen orderly_coldResetPoint fun _ => orderly_andThen orderly_hostPoint fun _ => orderly_readNow a

theorem orderly_memWrite (a : Nat) (v : Byte) : Orderly n K c [a] (memWrite a v) :=
  orderly_andThen orderly_coldResetPoint fun _ => orderly_andThen orderly_hostPoint fun _ => orderly_writeNow a v

theorem orderly_readCab : Orderly n K c [] readCab :=
  orderly_andThen orderly_coldResetPoint fun _ => orderly_readCabNow

theorem orderly_portWrite (p : Port) (l : Bool) : Orderly n K c [] (portWrite p l) := by
  refine orderly_andThen orderly_coldResetPoint fun _ => orderly_update _ (fun s => ?_) fun s j later => ?_
  · cases p <;> exact ⟨rfl, rfl, List.prefix_append _ _, fun _ => rfl, fun _ _ _ => rfl⟩
  · cases p <;> rfl

/-- What follows the read of a byte. -/
theorem orderly_read {a : Nat} {f : Byte → SlotM β} (h : ∀ v, Orderly n K c cells (f v)) :
    Orderly n K c cells (memRead a >>= f) :=
  orderly_andThen (orderly_memRead a) h

/-- What follows a store. -/
theorem orderly_store {a : Nat} {v : Byte} {f : Unit → SlotM β} (h : Orderly n K c cells (f ())) :
    Orderly n K c (a :: cells) (memWrite a v >>= f) :=
  orderly_bind (orderly_memWrite a v) fun _ => h

end

end Sys2Proof.Machine

namespace Sys2Proof.Machine

/-! ### The slots' stores in their order -/

section
variable {n : Fin 21} {K : Prop} {c : Cfg}

theorem orderly_irqOp : Orderly n K c [] irqOp :=
  have pulse : Orderly n K c [] pulse :=
    orderly_andThen (orderly_portWrite _ _) fun _ => orderly_andThen (orderly_portWrite _ _) fun _ => orderly_portWrite _ _
  orderly_cfg <| orderly_read fun _ => orderly_ite pulse (orderly_pure ())

theorem orderly_relayBank (b : Fin 4) : Orderly n K c [c.aBankMirror[b]] (relayBank b) :=
  orderly_cfg <| orderly_read fun _ => orderly_andThen (orderly_update _) fun _ => orderly_memWrite _ _

theorem orderly_inputRelayOp : Orderly n K c (c.aCabMirror :: c.aBankMirror.toList) inputRelayOp := by
  rw [vector_toList]
  exact orderly_cfg <| orderly_andThen orderly_readCab fun _ => orderly_andThen (orderly_update _) fun _ => orderly_store <|
    orderly_bind (orderly_relayBank 0) fun _ => orderly_bind (orderly_relayBank 1) fun _ =>
      orderly_bind (orderly_relayBank 2) fun _ => orderly_relayBank 3

theorem orderly_award (v : Byte) : Orderly n K c [c.aPhony, c.aChanged] (award v) :=
  orderly_cfg <| orderly_read fun _ => orderly_store <| orderly_memWrite _ _

theorem orderly_edge (g : Signal) (now : Bool) : Orderly n K c [] (edge g now) :=
  orderly_reg fun _ => orderly_andThen (orderly_update _) fun _ => orderly_pure _

/-- A coin line awards at most once (rules R103 to R106). -/
theorem orderly_coinLine (l : Fin 2) : Orderly n K c [c.aPhony, c.aChanged] (coinLine l) :=
  have accumulates (p : Price) : Orderly n K c [c.aPhony, c.aChanged] (accumulate l p) :=
    orderly_andThen (orderly_update _) fun _ => orderly_reg fun _ =>
      orderly_ite (orderly_andThen (orderly_update _) fun _ => orderly_award _) (orderly_pure ())
  have fell : Orderly n K c [c.aPhony, c.aChanged] (coinFell l) :=
    orderly_reg fun _ => orderly_ite (accumulates _) (orderly_award _)
  orderly_reg fun _ => orderly_andThen (orderly_edge _ _) fun _ => orderly_ite fell (orderly_pure ())

theorem orderly_engage {cells : List Nat} : Orderly n K c cells engage :=
  orderly_sublist (orderly_portWrite _ _) (List.nil_sublist _)

theorem orderly_serviceLine : Orderly n K c [c.aPhony, c.aChanged] serviceLine :=
  have fell : Orderly n K c [c.aPhony, c.aChanged] serviceFell :=
    orderly_cfg <| orderly_read fun _ => orderly_ite orderly_engage (orderly_award _)
  orderly_reg fun _ => orderly_andThen (orderly_edge _ _) fun _ => orderly_ite fell (orderly_pure ())

theorem orderly_threshold : Orderly n K c [] threshold :=
  orderly_cfg <| orderly_read fun _ => orderly_ite orderly_engage (orderly_portWrite _ _)

/-- Each of the three lines may award (rule R102). -/
theorem orderly_creditOp :
    Orderly n K c ([c.aPhony, c.aChanged] ++ ([c.aPhony, c.aChanged] ++ ([c.aPhony, c.aChanged] ++ []))) creditOp :=
  orderly_bind (orderly_coinLine 0) fun _ => orderly_bind (orderly_coinLine 1) fun _ =>
    orderly_bind orderly_serviceLine fun _ => orderly_threshold

theorem orderly_lockOp : Orderly n K c [] lockOp :=
  orderly_cfg <| orderly_read fun _ => orderly_ite orderly_engage (orderly_ite (orderly_portWrite _ _) (orderly_pure ()))

/-! #### The controllers -/

theorem orderly_complete (k : Fin 3) (r : Byte) : Orderly n K c [c.aCtrlOut[k], c.aCtrlCmd[k]] (complete k r) :=
  orderly_cfg <| orderly_store <| orderly_andThen (orderly_update _) fun _ => orderly_memWrite _ _

theorem orderly_operand (k : Fin 3) : Orderly n K c [] (operand k) := by
  refine orderly_cfg ?_
  cases c.ctrlOperand with
  | cache => exact orderly_reg (g := pure) fun _ => orderly_pure _
  | output => exact orderly_memRead _

theorem orderly_incCommand (k : Fin 3) : Orderly n K c [c.aCtrlOut[k], c.aCtrlCmd[k]] (incCommand k) :=
  orderly_cfg <| orderly_andThen (orderly_operand k) fun _ => orderly_complete k _

theorem orderly_creditCommand (k : Fin 2) (op : CreditOp) :
    Orderly n K c [c.aCtrlOut[k.castSucc], c.aCtrlCmd[k.castSucc]] (creditCommand k op) := by
  cases op with
  | derive => exact orderly_cfg <| orderly_reg fun _ => orderly_complete _ _
  | inc => exact orderly_incCommand _
  | dec => exact orderly_andThen (orderly_operand _) fun _ => orderly_complete _ _
  | setMax => exact orderly_cfg <| orderly_complete _ _

theorem orderly_levelCommand (op : LevelOp) :
    Orderly n K c [c.aCtrlOut[(2 : Fin 3)], c.aCtrlCmd[(2 : Fin 3)]] (levelCommand op) := by
  cases op with
  | inc => exact orderly_incCommand 2
  | set00 | set31 | set62 | set63 | set64 | set65 => exact orderly_cfg <| orderly_complete 2 _

theorem orderly_diagnostic (k : Fin 3) {cells : List Nat} : Orderly n K c cells (diagnostic k) :=
  have check : Orderly n K c cells (consistencyCheck k) :=
    orderly_cfg <| orderly_read fun _ => orderly_reg fun _ => orderly_ite (orderly_raise nofun) (orderly_pure ())
  orderly_cfg <| orderly_read fun _ => orderly_ite check (orderly_pure ())

theorem orderly_creditController (k : Fin 2) :
    Orderly n K c [c.aCtrlOut[k.castSucc], c.aCtrlCmd[k.castSucc]] (creditController k) := by
  refine orderly_cfg <| orderly_read fun cmd => orderly_ite (orderly_diagnostic _) ?_
  cases c.creditMap[k].op cmd with
  | some op => exact orderly_creditCommand k op
  | none => exact orderly_raise nofun

theorem orderly_levelController :
    Orderly n K c [c.aCtrlOut[(2 : Fin 3)], c.aCtrlCmd[(2 : Fin 3)]] levelController := by
  refine orderly_cfg <| orderly_read fun cmd => orderly_ite (orderly_diagnostic _) ?_
  cases c.levelMap.op cmd with
  | some op => exact orderly_levelCommand op
  | none => exact orderly_raise nofun

/-! #### The beastie relays: a kill ends the sweep, so what follows a turn may store only when there was none -/

section
variable {p : Fin 2} {i : Fin 7} {cells : List Nat} {f : Bool → SlotM Unit}

theorem orderly_verticalResult : Orderly n K c [c.aOVCode[p][i], c.aOVDist[p][i]] (verticalResult p i) :=
  orderly_cfg <| orderly_read fun _ => orderly_reg fun _ => orderly_store <| orderly_store <|
    orderly_update _
      (fun s => by
        split
        · exact ⟨rfl, rfl, List.prefix_rfl, fun _ => rfl, fun _ _ _ => rfl⟩
        · exact Onward.refl s)
      fun s j later => by
        show (if Overlaps s.cfg _ then _ else _) = _
        split <;> rfl

theorem orderly_horizontalResult : Orderly n K c [c.aOHCode[p][i], c.aOHDist[p][i]] (horizontalResult p i) :=
  orderly_cfg <| orderly_read fun _ => orderly_reg fun _ => orderly_store <| orderly_store <| orderly_pure _

variable (hkill : [c.aKillReq[p], c.aKillIdx[p]].Sublist cells) (hends : Orderly n K c [] (f true))
  (hgoes : Orderly n K c cells (f false))
include hkill hends hgoes

theorem orderly_killRequest_bind : Orderly n K c cells (killRequest p >>= f) := by
  unfold killRequest
  simp only [bind_assoc]
  refine orderly_cfg <| orderly_read fun l => ?_
  split
  · simp only [bind_assoc, pure_bind]
    exact orderly_sublist (orderly_store <| orderly_reg fun _ => orderly_store hends) hkill
  · rw [pure_bind]
    exact hgoes

theorem orderly_liveBeastie_bind : Orderly n K c (c.beastOutOf p i ++ cells) (liveBeastie p i >>= f) := by
  unfold liveBeastie
  simp only [bind_assoc]
  refine orderly_bind (cells := [_, _]) orderly_verticalResult fun _ => ?_
  refine orderly_bind (cells := [_, _]) orderly_horizontalResult fun dH => ?_
  refine orderly_reg fun hit => ?_
  split
  · exact orderly_killRequest_bind hkill hends hgoes
  · rw [pure_bind]
    exact hgoes

theorem orderly_visitBeastie_bind : Orderly n K c (c.beastOutOf p i ++ cells) (visitBeastie p i >>= f) := by
  unfold visitBeastie
  simp only [bind_assoc]
  refine orderly_cfg <| orderly_andThen (orderly_update _) fun _ => orderly_read fun stage => ?_
  split
  · exact orderly_liveBeastie_bind hkill hends hgoes
  · rw [pure_bind]
    exact orderly_sublist hgoes (List.sublist_append_right _ _)

end

theorem orderly_sweep (p : Fin 2) (l : List (Fin 7)) :
    Orderly n K c (l.flatMap (c.beastOutOf p) ++ [c.aKillReq[p], c.aKillIdx[p]]) (sweep p l) := by
  induction l with
  | nil => exact orderly_pure ()
  | cons i rest ih =>
    rw [List.flatMap_cons, List.append_assoc]
    exact orderly_visitBeastie_bind (List.sublist_append_right _ _) (orderly_pure ()) ih

theorem orderly_beastieRelay (p : Fin 2) : Orderly n K c (c.sweepCells p) (beastieRelay p) :=
  have live : Orderly n K c (c.sweepCells p) (livePlayer p) :=
    orderly_cfg <| orderly_read fun _ => orderly_andThen (orderly_update _) fun _ => orderly_read fun _ =>
      orderly_andThen (orderly_update _) fun _ => orderly_andThen (orderly_update _) fun _ => orderly_sweep p _
  orderly_cfg <| orderly_read fun _ => orderly_ite live (orderly_pure ())

/-! #### The creepers, the timers and the reset watcher -/

theorem orderly_creeper (k : Fin 4) : Orderly n K c [c.aCreepOut[k]] (creeper k) :=
  have emit (v i : Byte) : Orderly n K c [c.aCreepOut[k]] (emitCreeper k v i) :=
    orderly_cfg <| orderly_store <| orderly_update _
  have boundary : Orderly n K c [c.aCreepOut[k]] (creeperBoundary k) :=
    orderly_cfg <| orderly_read fun v => orderly_andThen (orderly_update _) fun _ => orderly_ite (orderly_raise nofun) (emit v 0)
  have refuse (v : Byte) : Orderly n K c [c.aCreepOut[k]] (refuseLatched k v) :=
    orderly_andThen orderly_coldResetPoint fun _ => orderly_raise nofun
  orderly_cfg <| orderly_reg fun v => orderly_reg fun i => orderly_ite (refuse v) (orderly_ite boundary (emit v i))

theorem orderly_clockOp : Orderly n K c [c.aClkActive, c.aClkDone, c.aClkHi, c.aClkLo] clockOp :=
  have ends : Orderly n K c [c.aClkActive, c.aClkDone] (do memWrite c.aClkActive 0; raiseOneShot c.aClkDone c.vDone) :=
    orderly_store <| orderly_memWrite _ _
  have stores (v : Half) :
      Orderly n K c [c.aClkHi, c.aClkLo] (do memWrite c.aClkHi (highByte v); memWrite c.aClkLo (lowByte v)) :=
    orderly_store <| orderly_memWrite _ _
  have count : Orderly n K c [c.aClkActive, c.aClkDone, c.aClkHi, c.aClkLo] clockCount :=
    orderly_cfg <| orderly_read fun _ => orderly_read fun _ => orderly_ite
      (orderly_sublist ends (List.sublist_append_left _ _))
      (orderly_sublist (stores _) (List.sublist_append_right [c.aClkActive, c.aClkDone] _))
  orderly_cfg <| orderly_read fun _ => orderly_ite (orderly_pure ()) count

theorem orderly_mischiefOp : Orderly n K c [c.aPhony] mischiefOp :=
  have armed : Orderly n K c [c.aPhony] mischiefArmed :=
    orderly_cfg <| orderly_reg fun _ => orderly_ite (orderly_memWrite _ _) (orderly_pure ())
  orderly_cfg <| orderly_read fun _ => orderly_ite armed (orderly_pure ())

theorem orderly_extendOp : Orderly n K c [c.aExtend] extendOp :=
  orderly_cfg <| orderly_read fun _ => orderly_memWrite _ _

theorem orderly_resetWatcherOp (hn : n = 19) : Orderly n K c [] resetWatcherOp :=
  orderly_cfg <| orderly_read fun _ => orderly_ite (orderly_restartNow hn) (orderly_pure ())

theorem orderly_delayOp : Orderly n K c [] delayOp :=
  orderly_cfg <| orderly_read fun _ => orderly_ite (orderly_pure ()) (orderly_pure ())

end

/-! #### The translators, whose first cell depends on the offset read (rule R189) -/

section
variable {n : Fin 21} {K : Prop}

/-- A read with no race on: what follows has the byte that stands there. -/
theorem orderlyFrom_readCell {s : State} {c : Cfg} (hs : Underway K c s) (hK : K) {a : Nat} (ha : InShared a) {cells : List Nat}
    {f : Byte → SlotM Unit} (h : OrderlyFrom n K (fun _ => True) cells (f (s.shared.get a)) s) :
    OrderlyFrom n K (fun _ => True) cells (memRead a >>= f) s := by
  refine orderlyFrom_bind (cells := []) (orderly_memRead a s hs) fun v t e => ?_
  rw [run_memRead_quiet s a hs.cold (hs.cfg ▸ hs.calm hK) ha] at e
  cases e
  exact h

theorem orderly_copyByte_stores (c : Cfg) (x : Fin 3) (a : Nat) (v : Byte) :
    Orderly n K c [a, c.aXlStatus[x]] (do memWrite a v; memWrite c.aXlStatus[x] c.vXlDone) :=
  orderly_store <| orderly_memWrite _ _

/-- Where nothing is said of the cells the bytes read do not matter. -/
theorem orderly_translator_of_not (hK : ¬ K) {c : Cfg} (x : Fin 3) (cells : List Nat) :
    Orderly n K c cells (translator x) := by
  refine orderly_cfg <| orderly_read fun _ => orderly_ite ?_ (orderly_pure ())
  refine orderly_cfg <| orderly_read fun v => orderly_ite (orderly_raise nofun) ?_
  exact orderly_cfg <| orderly_read fun j => orderly_read fun o =>
    fun s hs => orderlyFrom_of_not hK (orderly_copyByte_stores c x _ _ s hs)

theorem orderlyFrom_translator {s : State} (hs : Underway K s.cfg s) (hv : K → s.cfg.Valid) (x : Fin 3) :
    OrderlyFrom n K (fun _ => True) (s.copyCells x) (translator x) s := by
  by_cases hK : K
  · have hread (y : PlainCell) {f : Byte → SlotM Unit}
        (h : OrderlyFrom n K (fun _ => True) (s.copyCells x) (f (s.shared.get (s.cfg.addr y))) s) :
        OrderlyFrom n K (fun _ => True) (s.copyCells x) (memRead (s.cfg.addr y) >>= f) s :=
      orderlyFrom_readCell hs hK ((hv hK).inShared_addr y) h
    refine hread (.xlStatus x) ?_
    split
    · refine hread (.xlTable x) ?_
      split
      · exact orderly_raise (st := .refused _) nofun s hs
      · exact hread (.xlIndex x) <| hread (.xlOffset x) <| orderly_copyByte_stores _ x _ _ s hs
    · exact orderly_pure () s hs
  · exact orderly_translator_of_not hK x _ s hs

/-- Slot 2 has its stores to make up to three times; every other slot stores to its cells in the statements' order. -/
theorem orderlyFrom_slotOps {n : Fin 21} {s : State} (hs : Underway K s.cfg s) (hv : K → s.cfg.Valid) (hn : n ≠ 2) :
    OrderlyFrom n K (fun _ => True) (s.slotCells n) slotOps[n] s := by
  fin_cases n
  · exact orderly_irqOp s hs
  · exact orderly_inputRelayOp s hs
  · exact absurd rfl hn
  · exact orderly_lockOp s hs
  · exact orderly_creditController 0 s hs
  · exact orderly_creditController 1 s hs
  · exact orderly_levelController s hs
  · exact orderly_beastieRelay 0 s hs
  · exact orderly_beastieRelay 1 s hs
  · exact orderly_creeper 0 s hs
  · exact orderly_creeper 1 s hs
  · exact orderly_creeper 2 s hs
  · exact orderly_creeper 3 s hs
  · exact orderly_clockOp s hs
  · exact orderly_mischiefOp s hs
  · exact orderly_extendOp s hs
  · exact orderlyFrom_translator hs hv 0
  · exact orderlyFrom_translator hs hv 1
  · exact orderlyFrom_translator hs hv 2
  · exact orderly_resetWatcherOp rfl s hs
  · exact orderly_delayOp s hs

end

end Sys2Proof.Machine

namespace Sys2Proof.Machine

/-! ### Whole slots -/

section
variable {n : Fin 21} {K : Prop} {cells : List Nat} {s t u : State} {op : SlotM Unit}

/-- How a slot can end, seen from a state `u` on its way: with the way gone through or the CORE stopped on it, or by the reset
watcher's restart. -/
theorem ends_runSlot (h : Ends n K cells u (op.run { s with pc := .slot n })) (e : runSlot n op s = .next t) :
    (Onward K cells u t ∧ (t.pc = nextPc n ∨ t.status ≠ .running)) ∨ (n = 19 ∧ t.pc = .idle ∧ u.trace <+: t.trace) := by
  unfold runSlot at e
  split at e
  · rename_i v hrun
    cases e
    rw [hrun] at h
    exact .inl ⟨⟨h.outside, h.cold, h.trace, h.calm, h.kept⟩, .inl rfl⟩
  · rename_i x v hrun
    cases e
    rw [hrun] at h
    match x with
    | .terminal =>
      obtain ⟨hon, hst⟩ := h
      exact .inl ⟨⟨hon.outside, hon.cold, hon.trace, hon.calm, hon.kept⟩, .inr hst⟩
    | .restarted => exact .inr h

/-- A cold reset due in a slot falls behind it or strikes inside it. -/
theorem runSlot_due {C : State → Prop} (h : CutWithin op { s with pc := .slot n } C) (j : Nat) (later : List Nat) :
    (∃ k, k ≤ j ∧ runSlot n op (s.due j later) = mapNext (·.due (j - k) later) (runSlot n op s)) ∨
    ∃ u, C u ∧ runSlot n op (s.due j later) = .next (u.struck later) := by
  have hstart : ({ s.due j later with pc := .slot n } : State) = ({ s with pc := .slot n } : State).due j later := rfl
  unfold runSlot
  rw [hstart]
  refine (h j later).imp (fun ⟨k, hk, e⟩ => ⟨k, hk, ?_⟩) fun ⟨u, hu, e⟩ => ⟨u, hu, by rw [e]⟩
  rw [e]
  cases op.run { s with pc := .slot n } <;> rfl

/-- Every slot but slot 2 stores to its cells in the statements' order. -/
theorem orderlyFrom_slot (hcold : s.coldResets = []) (hcalm : K → s.cfg.hostInterleave = false ∨ s.hostRace = [])
    (hv : K → s.cfg.Valid) (hn : n ≠ 2) :
    OrderlyFrom n K (fun _ => True) (s.slotCells n) slotOps[n] { s with pc := .slot n } :=
  orderlyFrom_slotOps (s := { s with pc := .slot n }) ⟨rfl, hcold, hcalm⟩ hv hn

/-- Every slot is orderly, whatever the configuration and the environment. -/
theorem exists_orderlyFrom (n : Fin 21) (hs : s.coldResets = []) :
    ∃ cells, OrderlyFrom n False (fun _ => True) cells slotOps[n] { s with pc := .slot n } := by
  by_cases hn : n = 2
  · subst hn
    exact ⟨_, orderly_creditOp { s with pc := .slot 2 } ⟨rfl, hs, False.elim⟩⟩
  · exact ⟨_, orderlyFrom_slot hs False.elim False.elim hn⟩

end

/-! ### A tick runs to its end (rule R81) -/

/-- A slot leads to the next one, or ends the tick. -/
theorem runSlot_progress {n : Fin 21} {s t : State} (e : runSlot n slotOps[n] s = .next t) :
    t.pc = nextPc n ∨ t.pc = .idle ∨ t.status ≠ .running := by
  obtain ⟨cells, hends, hcut⟩ := exists_orderlyFrom (s := { s with coldResets := [] }) n rfl
  obtain ⟨u, hu⟩ := runSlot_next n slotOps[n] { s with coldResets := [] }
  have undisturbed : u.pc = nextPc n ∨ u.pc = .idle ∨ u.status ≠ .running := by
    rcases ends_runSlot hends hu with ⟨-, h | h⟩ | ⟨-, h, -⟩
    exacts [.inl h, .inr (.inr h), .inr (.inl h)]
  cases hcold : s.coldResets with
  | nil =>
    have hs : ({ s with coldResets := [] } : State) = s := by rw [← hcold]
    rw [hs, e] at hu
    cases hu
    exact undisturbed
  | cons j later =>
    rw [← due_of_coldResets hcold] at e
    rcases runSlot_due hcut j later with ⟨k, -, hk⟩ | ⟨v, -, hv⟩
    · rw [hk, hu] at e
      cases e
      exact undisturbed
    · rw [hv] at e
      cases e
      exact .inr (.inl rfl)

/-- With `left` slots still to come the tick ends in at most as many steps. -/
theorem tick_ends_within (left : Nat) : ∀ (s : State) (n : Fin 21), s.status = .running → s.pc = .slot n →
    n.val + left = 21 → ∃ k t, k ≤ left ∧ stepN k s = .next t ∧ (t.pc = .idle ∨ t.status ≠ .running) := by
  induction left with
  | zero => intro s n _ _ hleft; exact absurd n.isLt (by omega)
  | succ left ih =>
    intro s n hr hp hleft
    obtain ⟨t, ht⟩ := runSlot_next n slotOps[n] s
    have hstep : step s = .next t := (step_slot hr hp).trans ht
    by_cases hends : t.pc = .idle ∨ t.status ≠ .running
    · refine ⟨1, t, Nat.le_add_left 1 left, ?_, hends⟩
      rw [stepN, hstep]
      rfl
    · rw [not_or, not_not] at hends
      have hnext := (runSlot_progress ht).resolve_right (by simpa using hends)
      have hlt : n.val + 1 < 21 := by
        by_contra hge
        exact hends.1 (hnext.trans (dif_neg hge))
      obtain ⟨k, u, hk, hu, hend⟩ := ih t ⟨n.val + 1, hlt⟩ hends.2 (hnext.trans (dif_pos hlt)) (by simp only; omega)
      refine ⟨k + 1, u, Nat.succ_le_succ hk, ?_, hend⟩
      rw [stepN, hstep]
      exact hu

/-- Settles O56: every slot leads to the next or ends the tick, by induction on the slots that are left. -/
theorem tickEnds : Obligations.TickEnds := fun s n hr hp => tick_ends_within (21 - n.val) s n hr hp (by omega)

end Sys2Proof.Machine

namespace Sys2Proof

/-! ### The cells of the slots by name -/

/-- The named cells that slot `n` stores to, in the statements' order; a translator's destination is no named cell. -/
def PlainCell.storesOf (n : Fin 21) : List PlainCell :=
  match n.val with
  | 1 => .cabMirror :: (List.finRange 4).map .bankMirror
  | 2 => [.phony, .changed]
  | 4 => [.ctrlOut 0, .ctrlCmd 0]
  | 5 => [.ctrlOut 1, .ctrlCmd 1]
  | 6 => [.ctrlOut 2, .ctrlCmd 2]
  | 7 => ([0, 1, 2, 3, 4, 5, 6] : List (Fin 7)).flatMap (PlainCell.outsOf 0) ++ [.killReq 0, .killIdx 0]
  | 8 => ([0, 1, 2, 3, 4, 5, 6] : List (Fin 7)).flatMap (PlainCell.outsOf 1) ++ [.killReq 1, .killIdx 1]
  | 9 => [.creepOut 0]
  | 10 => [.creepOut 1]
  | 11 => [.creepOut 2]
  | 12 => [.creepOut 3]
  | 13 => [.clkActive, .clkDone, .clkHi, .clkLo]
  | 14 => [.phony]
  | 15 => [.extend]
  | 16 => [.xlStatus 0]
  | 17 => [.xlStatus 1]
  | 18 => [.xlStatus 2]
  | _ => []

/-- The named cells of rule R88's list. -/
def PlainCell.hostOnly : PlainCell → Bool
  | .irqMarker | .delayMarker | .resetCmd | .lockCmd | .mischiefEn | .creepSel _ | .xlTable _ | .xlIndex _ | .xlOffset _
  | .pLive _ | .pY _ | .pX _ | .bStage _ | .bY _ | .bX _ => true
  | .clkActive | .ctrlCmd _ | .xlStatus _ | .cabMirror | .phony | .changed | .clkHi | .clkLo | .clkDone | .extend
  | .bankMirror _ | .ctrlOut _ | .killReq _ | .killIdx _ | .oVCode _ _ | .oHCode _ _ | .oVDist _ _ | .oHDist _ _
  | .creepOut _ => false

theorem PlainCell.not_hostOnly_of_storesOf : ∀ n, ∀ x ∈ PlainCell.storesOf n, x.hostOnly = false := by decide

theorem PlainCell.nodup_storesOf : ∀ n, (PlainCell.storesOf n).Nodup := by decide

/-- Rule R88's list: named cells, and the gates. -/
theorem Cfg.mem_hostOnlyCells {c : Cfg} {a : Nat} (h : a ∈ c.hostOnlyCells) :
    (∃ x : PlainCell, x.hostOnly = true ∧ a = c.addr x) ∨ ∃ k : Fin 3, a = c.aCtrlGate[k] := by
  simp only [Cfg.hostOnlyCells, vector_toList, List.mem_append, List.mem_cons, List.not_mem_nil, or_false, List.mem_map,
    List.mem_finRange, true_and] at h
  rcases h with (((((((((((h | ⟨k, rfl⟩) | ⟨k, rfl⟩) | ⟨k, rfl⟩) | ⟨k, rfl⟩) | ⟨k, rfl⟩) | ⟨k, rfl⟩) | ⟨k, rfl⟩) | ⟨k, rfl⟩) |
    ⟨k, rfl⟩) | ⟨k, rfl⟩) | ⟨k, rfl⟩)
  · rcases h with rfl | rfl | rfl | rfl | rfl
    exacts [.inl ⟨.irqMarker, rfl, rfl⟩, .inl ⟨.delayMarker, rfl, rfl⟩, .inl ⟨.resetCmd, rfl, rfl⟩,
      .inl ⟨.lockCmd, rfl, rfl⟩, .inl ⟨.mischiefEn, rfl, rfl⟩]
  exacts [.inr ⟨k, rfl⟩, .inl ⟨.creepSel k, rfl, rfl⟩, .inl ⟨.xlTable k, rfl, rfl⟩, .inl ⟨.xlIndex k, rfl, rfl⟩,
    .inl ⟨.xlOffset k, rfl, rfl⟩, .inl ⟨.pLive k, rfl, rfl⟩, .inl ⟨.pY k, rfl, rfl⟩, .inl ⟨.pX k, rfl, rfl⟩,
    .inl ⟨.bStage k, rfl, rfl⟩, .inl ⟨.bY k, rfl, rfl⟩, .inl ⟨.bX k, rfl, rfl⟩]

namespace Machine

/-- The cell inside a window that slot `n` stores to, if it is a translator's. -/
def State.windowCells (s : State) (n : Fin 21) : List Nat :=
  match n.val with
  | 16 => [s.xlDestination 0]
  | 17 => [s.xlDestination 1]
  | 18 => [s.xlDestination 2]
  | _ => []

theorem slotCells_eq (s : State) (n : Fin 21) :
    s.slotCells n = s.windowCells n ++ (PlainCell.storesOf n).map s.cfg.addr := by
  fin_cases n
  swap
  · exact congrArg (s.cfg.aCabMirror :: ·) (vector_toList s.cfg.aBankMirror)
  all_goals rfl

theorem windowCells_cases (s : State) (n : Fin 21) :
    s.windowCells n = [] ∨ ∃ x, s.windowCells n = [s.xlDestination x] ∧ PlainCell.storesOf n = [.xlStatus x] := by
  fin_cases n
  rotate_left 16
  · exact .inr ⟨0, rfl, rfl⟩
  · exact .inr ⟨1, rfl, rfl⟩
  · exact .inr ⟨2, rfl, rfl⟩
  all_goals exact .inl rfl

/-- A translator's destination lies in its window. -/
theorem inWindow_of_windowCells {s : State} {n : Fin 21} {a : Nat} (h : a ∈ s.windowCells n) :
    ∃ x : Fin 3, s.cfg.InWindow x a := by
  rcases windowCells_cases s n with h' | ⟨x, h', -⟩
  · rw [h'] at h
    cases h
  · rw [h', List.mem_singleton] at h
    have hlt := (s.shared.get s.cfg.aXlOffset[x]).isLt
    have ha : a = s.cfg.xlBase[x] + (s.shared.get s.cfg.aXlOffset[x]).toNat := h
    exact ⟨x, by omega, by omega⟩

/-- No slot stores to a cell of rule R88's list, unless a window covers it. -/
theorem not_mem_slotCells_of_hostOnly {s : State} (hv : s.cfg.Valid) {n : Fin 21} {a : Nat} (ha : a ∈ s.cfg.hostOnlyCells)
    (hw : ∀ x : Fin 3, ¬ s.cfg.InWindow x a) : a ∉ s.slotCells n := by
  rw [slotCells_eq, List.mem_append, List.mem_map]
  rintro (h | ⟨y, hy, hya⟩)
  · obtain ⟨x, hx⟩ := inWindow_of_windowCells h
    exact hw x hx
  · rcases Cfg.mem_hostOnlyCells ha with ⟨x, hx, rfl⟩ | ⟨k, rfl⟩
    · rw [← hv.addr_inj hya, PlainCell.not_hostOnly_of_storesOf n y hy] at hx
      cases hx
    · exact hv.gate_ne k y hya.symm

/-- Settles O54: slot 2 and the reset watcher by their statements, any other slot by the cells it stores to. -/
theorem hostOnlyCells : Obligations.HostOnlyCells := by
  intro s t n a hq hv hr hp e ha hw htrigger
  have hnot : a ∉ s.slotCells n := not_mem_slotCells_of_hostOnly hv ha hw
  rw [step_slot hr hp] at e
  by_cases h2 : n = 2
  · subst h2
    obtain ⟨m, l, d, hcredit, -, -, -, -, -, -, hothers⟩ := creditSlot s hq hv
    cases hcredit.symm.trans e
    exact hothers a (fun h => hnot (h ▸ List.mem_cons_self)) fun h => hnot (h ▸ List.mem_cons_of_mem _ List.mem_cons_self)
  · obtain ⟨hends, -⟩ := orderlyFrom_slot (K := True) hq.1 (fun _ => hq.2) (fun _ => hv) h2
    rcases ends_runSlot hends e with ⟨hon, -⟩ | ⟨rfl, -, -⟩
    · exact hon.kept trivial a hnot
    · have hidle := (resetWatcher s hq hv).2.1 fun h => htrigger ⟨rfl, h⟩
      cases hidle.symm.trans e
      rfl

end Machine

end Sys2Proof

/-!
PROOFS. The interrupt gate, the input relay and the delay check in a quiet tick.
-/

namespace Sys2Proof.Machine

section
variable {s : State} (hq : s.Quiet) (hv : s.cfg.Valid)
include hq

/-! ### The interrupt gate (rules R82, R83) -/

/-- The pulse: three drives, the last one low. -/
theorem runSlot_pulse (n : Fin 21) :
    runSlot n pulse s = .next { s with
      pc := nextPc n, irqOut := false
      trace := s.trace ++ [(.irqOut, false), (.irqOut, true), (.irqOut, false)] } := by
  have hcold : s.coldResets = [] := hq.1
  simp [runSlot, pulse, State.drive, hcold]

include hv

theorem exec_irq : exec .irq s = runSlot 0 (afterRead s.cfg (s.shared.get s.cfg.aIrqMarker) .irqMarker) s :=
  exec_slotOfCell hq hv (cell := .irqMarker) rfl nofun

end

/-- Settles O10: the slot goes on with the marker cell's byte, and the command's row is the pulse. -/
theorem irqSlot : Obligations.IrqSlot := by
  intro s hq hv
  refine ⟨fun hmarker => ?_, fun hother => ?_, runSlot_pulse hq 0⟩
  · rw [exec_irq hq hv, afterRead, if_pos hmarker]
    exact runSlot_pulse hq 0
  · exact exec_noOperation hq hv (cell := .irqMarker) rfl nofun (if_neg hother)

/-! ### The input relay's samples (rules R32, R84) -/

/-- The states of slot 1 in a quiet tick in which every bank of `done` has been sampled: a held byte is the byte sampled. -/
structure Sampled (base : State) (done : List (Fin 4)) (s : State) : Prop where
  cfg : s.cfg = base.cfg
  quiet : s.Quiet
  held : s.heldBank = base.heldBank
  cab : ∀ x, base.heldCab = some x → s.cabLatch = x
  banks : ∀ b ∈ done, ∀ x, base.heldBank[b] = some x → s.bank[b] = x

theorem completes_sampledBank {base : State} (hv : base.cfg.Valid) {done : List (Fin 4)} (b : Fin 4) :
    Completes (Sampled base done) (relayBank b) fun _ => Sampled base (b :: done) := by
  intro s h
  obtain ⟨w, d, hsample, hheld⟩ := sampleBank_held s b
  have hread := run_memRead_input s b h.quiet.1 h.quiet.2
  rw [hsample] at hread
  have hwrite := run_memWrite_quiet { s with draws := d, bank := s.bank.set b w } s.cfg.aBankMirror[b] w h.quiet.1
    h.quiet.2 ((h.cfg ▸ hv).inShared_addr (.bankMirror b))
  simp only [relayBank, run_bind, run_reg, hread, run_update, hwrite]
  refine ⟨h.cfg, h.quiet, h.held, h.cab, fun c hc x hx => ?_⟩
  by_cases hcb : c = b
  · subst hcb
    exact (Vector.getElem_set_self c.isLt).trans (hheld x (h.held ▸ hx)).1
  · have hkeep : (s.bank.set b w)[c] = s.bank[c] := Vector.getElem_set_ne b.isLt c.isLt fun he => hcb (Fin.ext he.symm)
    exact hkeep.trans (h.banks c ((List.mem_cons.mp hc).resolve_left hcb) x hx)

/-- A sample of the cabinet byte counts draws at most; a held byte is the byte sampled (rule R32). -/
theorem sampleCab_held (s : State) :
    ∃ v d, s.sampleCab = (v, { s with draws := d }) ∧ ∀ x, s.heldCab = some x → v = x := by
  unfold State.sampleCab
  split
  · rename_i v hv
    exact ⟨v, s.draws, rfl, fun x hx => Option.some.inj (hv.symm.trans hx)⟩
  · rename_i hn
    exact ⟨_, s.draws + 1, rfl, fun x hx => absurd (hn.symm.trans hx) nofun⟩

/-- The cabinet byte is sampled and mirrored before the banks. -/
theorem completes_sampledInputs {s : State} (hq : s.Quiet) (hv : s.cfg.Valid) :
    Completes (· = s) inputRelayOp fun _ => Sampled s [3, 2, 1, 0] := by
  obtain ⟨v, d, hsample, hheld⟩ := sampleCab_held s
  have hcab := run_readCab_quiet s hq.1
  rw [hsample] at hcab
  have hlatched : Sampled s [] { s with draws := d, cabLatch := v, shared := s.shared.put s.cfg.aCabMirror v } :=
    ⟨rfl, hq, rfl, hheld, nofun⟩
  have hwrite := run_memWrite_quiet { s with draws := d, cabLatch := v } s.cfg.aCabMirror v hq.1 hq.2
    (hv.inShared_addr .cabMirror)
  have hbanks : Completes (Sampled s []) (do relayBank 0; relayBank 1; relayBank 2; relayBank 3) fun _ =>
      Sampled s [3, 2, 1, 0] :=
    triple_bind (completes_sampledBank hv 0) fun _ => triple_bind (completes_sampledBank hv 1) fun _ =>
      triple_bind (completes_sampledBank hv 2) fun _ => completes_sampledBank hv 3
  have hrun : inputRelayOp.run s = (do relayBank 0; relayBank 1; relayBank 2; relayBank 3 : SlotM Unit).run
      { s with draws := d, cabLatch := v, shared := s.shared.put s.cfg.aCabMirror v } := by
    simp only [inputRelayOp, run_bind, run_reg, hcab, run_update, hwrite]
  rintro _ rfl
  rw [hrun]
  exact hbanks _ hlatched

/-- Settles O11: the relay's slot by its equation, the held bytes by what stands in the registers at its end. -/
theorem inputRelay : Obligations.InputRelay := by
  intro s hq hv
  obtain ⟨v, w, m, d, hexec, hcab, hbanks, hothers⟩ := exec_inrel hq hv
  obtain ⟨t, ht, hrun⟩ := runSlot_of_completes (completes_sampledInputs (hq.atSlot 1) hv)
  have hend := Host.Outcome.next.inj (hrun.symm.trans hexec)
  obtain rfl : t.cabLatch = v := congrArg State.cabLatch hend
  obtain rfl : t.bank = w := congrArg State.bank hend
  exact ⟨_, _, m, d, hexec, ht.cab, fun b => ht.banks b (by fin_cases b <;> decide), hcab, hbanks, hothers⟩

/-! ### The delay check (rule R87) -/

/-- Settles O41: behind the marker's read, present or not, nothing is left to do. -/
theorem delaySlot : Obligations.DelaySlot := by
  intro s hq hv
  have hnone : afterRead s.cfg (s.shared.get s.cfg.aDelayMarker) .delayMarker = pure () := ite_self _
  exact ⟨exec_noOperation hq hv (cell := .delayMarker) rfl nofun hnone, runSlot_pure 20 s⟩

end Sys2Proof.Machine

/-!
PROOFS. The cold reset inside a tick. Due before the first access it meets registers only (`Opens`); due later it falls behind
the slot or strikes on its way (`OrderlyFrom`); and at a place given by number the slot runs up to that access, the countdown
one access nearer at each, and ends there.
-/

namespace Sys2Proof.Machine

/-! ### A cold reset before the first access (rule R231) -/

/-- Where a cold reset is due before the next access, it comes inside `m`, and finds no more than register writes made. -/
def Opens {α : Type} (m : SlotM α) : Prop :=
  ∀ s later, s.coldResets = 0 :: later → m.run s = .error .restarted (s.struck later)

/-- As `Opens`, but `m` may also go through without an access. -/
def OpensOrPasses {α : Type} (m : SlotM α) : Prop :=
  ∀ s later, s.coldResets = 0 :: later →
    m.run s = .error .restarted (s.struck later) ∨ ∃ a t, m.run s = .ok a t ∧ t.restart = s.restart

section
variable {α β : Type}

theorem Opens.orPasses {m : SlotM α} (h : Opens m) : OpensOrPasses m := fun s later hs => .inl (h s later hs)

theorem opens_coldResetPoint : Opens coldResetPoint := by
  intro s later hs
  rcases coldResetPoint_cases s with ⟨later', h0, e⟩ | ⟨n, hn, -⟩
  · obtain rfl : later = later' := List.tail_eq_of_cons_eq (hs.symm.trans h0)
    exact e
  · rcases hn with ⟨h0, -⟩ | ⟨k, later', h0, -⟩
    · exact absurd (hs.symm.trans h0) nofun
    · exact absurd (hs.symm.trans h0) nofun

theorem opens_bind {m : SlotM α} {f : α → SlotM β} (hm : Opens m) : Opens (m >>= f) := by
  intro s later hs
  rw [run_bind, hm s later hs]

theorem opens_after {m : SlotM α} {f : α → SlotM β} (hm : OpensOrPasses m) (hf : ∀ a, Opens (f a)) : Opens (m >>= f) := by
  intro s later hs
  rw [run_bind]
  rcases hm s later hs with e | ⟨a, t, e, ht⟩
  · rw [e]
  · have hstruck : t.struck later = s.struck later := congrArg (fun u : State => { u with coldResets := later }) ht
    have hcold : t.coldResets = 0 :: later := (congrArg State.coldResets ht).trans hs
    rw [e, ← hstruck]
    exact hf a t later hcold

theorem opens_reg {f : State → α} {g : α → SlotM β} (h : ∀ a, Opens (g a)) : Opens (reg f >>= g) :=
  fun s later hs => h (f s) s later hs

theorem opens_ite {p : Prop} [Decidable p] {m m' : SlotM α} (h : Opens m) (h' : Opens m') : Opens (if p then m else m') := by
  split <;> assumption

theorem opens_memRead (a : Nat) : Opens (memRead a) := opens_bind opens_coldResetPoint

theorem opens_memWrite (a : Nat) (v : Byte) : Opens (memWrite a v) := opens_bind opens_coldResetPoint

theorem opens_portWrite (p : Port) (l : Bool) : Opens (portWrite p l) := opens_bind opens_coldResetPoint

theorem passes_pure (a : α) : OpensOrPasses (pure a : SlotM α) := fun s _ _ => .inr ⟨a, s, rfl, rfl⟩

/-- A register write, which a reset undoes. -/
theorem passes_update (f : State → State) (h : ∀ s, (f s).restart = s.restart := by intros; rfl) :
    OpensOrPasses (update f) :=
  fun s _ _ => .inr ⟨(), f s, rfl, h s⟩

theorem passes_bind {m : SlotM α} {f : α → SlotM β} (hm : OpensOrPasses m) (hf : ∀ a, OpensOrPasses (f a)) :
    OpensOrPasses (m >>= f) := by
  intro s later hs
  rw [run_bind]
  rcases hm s later hs with e | ⟨a, t, e, ht⟩
  · exact .inl (by rw [e])
  · have hstruck : t.struck later = s.struck later := congrArg (fun u : State => { u with coldResets := later }) ht
    have hcold : t.coldResets = 0 :: later := (congrArg State.coldResets ht).trans hs
    rw [e, ← hstruck, ← ht]
    exact hf a t later hcold

theorem passes_reg {f : State → α} {g : α → SlotM β} (h : ∀ a, OpensOrPasses (g a)) : OpensOrPasses (reg f >>= g) :=
  fun s later hs => h (f s) s later hs

theorem passes_ite {p : Prop} [Decidable p] {m m' : SlotM α} (h : OpensOrPasses m) (h' : OpensOrPasses m') :
    OpensOrPasses (if p then m else m') := by
  split <;> assumption

/-- A slot that begins with a read. -/
theorem opens_read (addr : Cfg → Nat) {f : Cfg → Byte → SlotM β} :
    Opens (reg (·.cfg) >>= fun cfg => memRead (addr cfg) >>= f cfg) :=
  opens_reg fun _ => opens_bind (opens_memRead _)

theorem opens_creditOp : Opens creditOp :=
  have awards (v : Byte) : OpensOrPasses (award v) := (opens_read (·.aPhony)).orPasses
  have edges (g : Signal) (now : Bool) : OpensOrPasses (edge g now) :=
    passes_reg fun _ => passes_bind (passes_update _) fun _ => passes_pure _
  have accumulates (l : Fin 2) (p : Price) : OpensOrPasses (accumulate l p) :=
    passes_bind (passes_update _) fun _ => passes_reg fun _ =>
      passes_ite (passes_bind (passes_update _) fun _ => awards _) (passes_pure ())
  have coins (l : Fin 2) : OpensOrPasses (coinLine l) :=
    passes_reg fun _ => passes_bind (edges _ _) fun _ =>
      passes_ite (passes_reg fun _ => passes_ite (accumulates _ _) (awards _)) (passes_pure ())
  have service : OpensOrPasses serviceLine :=
    passes_reg fun _ => passes_bind (edges _ _) fun _ => passes_ite (opens_read (·.aPhony)).orPasses (passes_pure ())
  opens_after (coins 0) fun _ => opens_after (coins 1) fun _ => opens_after service fun _ => opens_read (·.aPhony)

theorem opens_creeper (k : Fin 4) : Opens (creeper k) :=
  have emit (v i : Byte) : Opens (emitCreeper k v i) := opens_reg fun _ => opens_bind (opens_memWrite _ _)
  opens_reg fun _ => opens_reg fun _ => opens_reg fun _ =>
    opens_ite (opens_bind opens_coldResetPoint) (opens_ite (opens_read (·.aCreepSel[k])) (emit _ _))

theorem opens_creditController (k : Fin 2) : Opens (creditController k) := opens_read (·.aCtrlCmd[k.castSucc])

theorem opens_beastieRelay (p : Fin 2) : Opens (beastieRelay p) := opens_read (·.aPLive[p])

theorem opens_translator (x : Fin 3) : Opens (translator x) := opens_read (·.aXlStatus[x])

/-- Every slot makes an access before it writes more than registers. -/
theorem opens_slotOps (n : Fin 21) : Opens slotOps[n] := by
  fin_cases n
  · exact show Opens irqOp from opens_read (·.aIrqMarker)
  · exact show Opens inputRelayOp from opens_reg fun _ => opens_bind (opens_bind opens_coldResetPoint)
  · exact opens_creditOp
  · exact show Opens lockOp from opens_read (·.aLockCmd)
  · exact opens_creditController 0
  · exact opens_creditController 1
  · exact show Opens levelController from opens_read (·.aCtrlCmd[2])
  · exact opens_beastieRelay 0
  · exact opens_beastieRelay 1
  · exact opens_creeper 0
  · exact opens_creeper 1
  · exact opens_creeper 2
  · exact opens_creeper 3
  · exact show Opens clockOp from opens_read (·.aClkActive)
  · exact show Opens mischiefOp from opens_read (·.aMischiefEn)
  · exact show Opens extendOp from opens_read (·.aExtend)
  · exact opens_translator 0
  · exact opens_translator 1
  · exact opens_translator 2
  · exact show Opens resetWatcherOp from opens_read (·.aResetCmd)
  · exact show Opens delayOp from opens_read (·.aDelayMarker)

end

theorem runSlot_opens {n : Fin 21} {op : SlotM Unit} (h : Opens op) {s : State} {later : List Nat}
    (hs : s.coldResets = 0 :: later) : runSlot n op s = .next (s.struck later) :=
  runSlot_of_error n op s _ .restarted (h _ later hs)

/-! ### The statement's word for a slot cut short -/

theorem cutShort_restart (s : State) (later : List Nat) (m : Memory) (d : List (Port × Bool)) :
    CutShort s later m d
      (.next ({ s with coldResets := later, shared := m, trace := s.trace ++ d } : State).restart) :=
  ⟨_, rfl, resetFrom_restart _⟩

/-- A cold reset that strikes with nothing but stores made. -/
theorem cutShort_struck (s : State) (later : List Nat) (m : Memory) :
    CutShort s later m [] (.next (({ s with shared := m } : State).struck later)) := by
  have h := cutShort_restart s later m []
  rw [List.append_nil] at h
  exact h

/-- A cold reset that strikes on the way from `s`. -/
theorem cutShort_of_outside {s u : State} {d : List (Port × Bool)} (hout : u.outside = s.outside)
    (htrace : s.trace ++ d = u.trace) (later : List Nat) :
    CutShort { s with draws := u.draws, hostRace := u.hostRace } later u.shared d (.next (u.struck later)) := by
  simp only [State.outside, Prod.mk.injEq] at hout
  obtain ⟨hcfg, hbank, hcab, hscript, hreads⟩ := hout
  have hu : u.struck later = ({ s with
      draws := u.draws, hostRace := u.hostRace, coldResets := later, shared := u.shared
      trace := s.trace ++ d } : State).restart := by
    simp only [State.struck, State.restart, hcfg, hbank, hcab, hscript, hreads, htrace]
  rw [hu]
  exact cutShort_restart { s with draws := u.draws, hostRace := u.hostRace } later u.shared d

/-! ### What stands in the cells on the way (rules R106, R231, R232) -/

section
variable {α : Type} {n : Fin 21} {K : Prop} {cells : List Nat} {s t u : State}

theorem nodup_slotCells (hv : s.cfg.Valid) (n : Fin 21) : (s.slotCells n).Nodup := by
  have hplain : ((PlainCell.storesOf n).map s.cfg.addr).Nodup :=
    (PlainCell.nodup_storesOf n).map fun _ _ e => hv.addr_inj e
  rw [slotCells_eq]
  rcases windowCells_cases s n with h | ⟨x, h, hx⟩
  · rw [h]
    exact hplain
  · rw [h, List.singleton_append, List.nodup_cons, hx]
    refine ⟨fun hmem => ?_, hx ▸ hplain⟩
    rw [List.map_singleton, List.mem_singleton] at hmem
    exact hv.window_ne x _ (.xlStatus x) rfl hmem

/-- Between two states on a way that stores to each cell once at most, a cell holds the old or the new byte. -/
theorem OnTheWay.get_or (hK : K) (hcells : cells.Nodup) {a : α} (h : OnTheWay n K cells s (.ok a t) u) (b : Nat) :
    u.shared.get b = s.shared.get b ∨ u.shared.get b = t.shared.get b := by
  obtain ⟨made, left, rfl, hu, ht⟩ := h
  by_cases hb : b ∈ made
  · exact .inr (Onward.kept ht hK b fun hb' => List.disjoint_of_nodup_append hcells hb hb').symm
  · exact .inl (hu.kept hK b hb)

/-- On its way slot `n` has stored what it leaves, up to some point of its cells. -/
theorem storesCutShort_of_onTheWay (hK : K) (hv : s.cfg.Valid) (hn : n ≠ 2) {op : SlotM Unit}
    (h : OnTheWay n K (s.slotCells n) { s with pc := .slot n } (op.run { s with pc := .slot n }) u)
    (e : runSlot n op s = .next t) : StoresCutShort s n t u.shared := by
  obtain ⟨made, left, hcells, hu, hend⟩ := h
  have hnodup := nodup_slotCells hv n
  rw [hcells] at hnodup
  refine ⟨fun a ha => hu.kept hK a fun hmem => ha (hcells ▸ List.mem_append_left _ hmem),
    fun _ => ⟨made.length, fun a ha => ?_, fun a ha => ?_⟩, fun h2 => absurd h2 hn⟩
  · rw [hcells, List.take_left] at ha
    rcases ends_runSlot hend e with ⟨hon, -⟩ | ⟨rfl, -, -⟩
    · exact (hon.kept hK a fun hleft => List.disjoint_of_nodup_append hnodup ha hleft).symm
    · have hnone : made ++ left = [] := hcells.symm
      rw [List.append_eq_nil_iff] at hnone
      rw [hnone.1] at ha
      cases ha
  · rw [hcells, List.drop_left] at ha
    exact hu.kept hK a fun hmade => List.disjoint_of_nodup_append hnodup hmade ha

end

end Sys2Proof.Machine

namespace Sys2Proof.Machine

/-! ### Slot 2 cut short: its lines post one after the other (rules R102, R106) -/

/-- The ledger before, between and after the three lines. -/
noncomputable def State.ledgers (s : State) : List Ledger :=
  [s.ledger, s.ledgerAfterCoinA, s.ledgerAfterCoins, s.ledgerAfterLines]

/-- The cells of `t` hold the ledger `x` of a slot 2 that began with `s`. -/
def LedgerSeen (s : State) (x : Ledger) (t : State) : Prop :=
  t.shared.get s.cfg.aPhony = x.phony ∧
    t.shared.get s.cfg.aChanged = if x.changed then s.cfg.vChanged else s.shared.get s.cfg.aChanged

/-- What `StoresCutShort` says of the two cells of slot 2, the final flag by the ledger. -/
def LedgerCut (s u : State) : Prop :=
  (u.shared.get s.cfg.aChanged = s.shared.get s.cfg.aChanged ∨
    s.ledgerAfterLines.changed = true ∧ u.shared.get s.cfg.aChanged = s.cfg.vChanged) ∧
  ∃ x ∈ s.ledgers, u.shared.get s.cfg.aPhony = x.phony

theorem Ledger.changed_coin {x : Ledger} (h : x.changed = true) (l : Fin 2) (p : Price) : (x.coin l p).changed = true := by
  unfold Ledger.coin
  split
  · rfl
  · split
    · rfl
    · exact h

section
variable {s t u : State}

/-- No line takes the flag back. -/
theorem changed_ledgerAfterLines {x : Ledger} (hx : x ∈ s.ledgers) (h : x.changed = true) :
    s.ledgerAfterLines.changed = true := by
  have lines (h : s.ledgerAfterCoins.changed = true) : s.ledgerAfterLines.changed = true := by
    unfold State.ledgerAfterLines
    split
    · rfl
    · exact h
  have coinB (h : s.ledgerAfterCoinA.changed = true) : s.ledgerAfterCoins.changed = true := by
    unfold State.ledgerAfterCoins
    split
    · exact Ledger.changed_coin h _ _
    · exact h
  simp only [State.ledgers, List.mem_cons, List.not_mem_nil, or_false] at hx
  rcases hx with rfl | rfl | rfl | rfl
  exacts [absurd h nofun, lines (coinB h), lines h, h]

/-- A cell that holds the old or the new byte of a line. -/
theorem ledgerCut_of_seen {x y : Ledger} {t' : State} (hx : x ∈ s.ledgers) (hy : y ∈ s.ledgers) (ht : LedgerSeen s x t)
    (ht' : LedgerSeen s y t') (hu : ∀ b, u.shared.get b = t.shared.get b ∨ u.shared.get b = t'.shared.get b) :
    LedgerCut s u := by
  have flag {z : Ledger} {v : State} (hz : z ∈ s.ledgers) (hv : LedgerSeen s z v) :
      v.shared.get s.cfg.aChanged = s.shared.get s.cfg.aChanged ∨
        s.ledgerAfterLines.changed = true ∧ v.shared.get s.cfg.aChanged = s.cfg.vChanged := by
    cases h : z.changed with
    | false => exact .inl (by simpa [h] using hv.2)
    | true => exact .inr ⟨changed_ledgerAfterLines hz h, by simpa [h] using hv.2⟩
  constructor
  · rcases hu s.cfg.aChanged with h | h <;> rw [h]
    exacts [flag hx ht, flag hy ht']
  · rcases hu s.cfg.aPhony with h | h <;> rw [h]
    exacts [⟨x, hx, ht.1⟩, ⟨y, hy, ht'.1⟩]

theorem Posting.seen {p : Vector Bool 3} {x : Ledger} (h : Posting s p x t) : LedgerSeen s x t := by
  obtain ⟨m, hm⟩ := h
  exact ⟨hm.phony, hm.changed⟩

theorem Posting.seen_serviceDriven {p : Vector Bool 3} {x : Ledger} (h : Posting s.serviceDriven p x t) :
    LedgerSeen s x t := by
  have hshared : s.serviceDriven.shared = s.shared := by unfold State.serviceDriven; split <;> rfl
  have h' := h.seen
  rw [LedgerSeen, serviceDriven_cfg, hshared] at h'
  exact h'

/-- What a piece that completes leaves. -/
theorem Completes.of_run {α : Type} {P : State → Prop} {m : SlotM α} {Q : α → State → Prop} (h : Completes P m Q) (hs : P s)
    {a : α} (e : m.run s = .ok a t) : Q a t := by
  have h' := h s hs
  rw [e] at h'
  exact h'

theorem Completes.exists_run {α : Type} {P : State → Prop} {m : SlotM α} {Q : α → State → Prop} (h : Completes P m Q)
    (hs : P s) : ∃ a t, m.run s = .ok a t := by
  have h' := h s hs
  cases e : m.run s with
  | ok a t => exact ⟨a, t, rfl⟩
  | error x t =>
    rw [e] at h'
    exact h'.elim

section
variable {K : Prop} (hK : K) (hv : s.cfg.Valid)
include hK hv

/-- A line that moves the ledger from `x` to `y` is cut short with `x` or `y` in either cell. -/
theorem orderlyFrom_line {P : State → Prop} {Q : Unit → State → Prop} {line : SlotM Unit} {x y : Ledger}
    (hx : x ∈ s.ledgers) (hy : y ∈ s.ledgers)
    (horder : OrderlyFrom 2 K (fun _ => True) [s.cfg.aPhony, s.cfg.aChanged] line t) (hline : Completes P line Q)
    (ht : P t) (hseen : LedgerSeen s x t) (hQ : ∀ v, Q () v → LedgerSeen s y v) :
    OrderlyFrom 2 K (LedgerCut s) [s.cfg.aPhony, s.cfg.aChanged] line t := by
  obtain ⟨_, v, e⟩ := hline.exists_run ht
  have hcells : [s.cfg.aPhony, s.cfg.aChanged].Nodup := by simpa using phony_ne_changed hv
  refine ⟨horder.1, horder.2.mono fun u ⟨hu, _⟩ => ⟨hu, ?_⟩⟩
  rw [e] at hu
  exact ledgerCut_of_seen hx hy hseen (hQ v (hline.of_run ht e)) (hu.get_or hK hcells)

/-- Slot 2 cut short. -/
theorem orderlyFrom_creditOp (hs : Underway K s.cfg s) :
    OrderlyFrom 2 K (LedgerCut s)
      ([s.cfg.aPhony, s.cfg.aChanged] ++ ([s.cfg.aPhony, s.cfg.aChanged] ++ ([s.cfg.aPhony, s.cfg.aChanged] ++ [])))
      creditOp s := by
  have hq : s.Quiet := ⟨hs.cold, hs.calm hK⟩
  have hA := posting_coinLine hq hv (p := s.prev) (x := s.ledger) 0 (j := 0) rfl rfl
  have hB := posting_coinLine hq hv (p := s.prev.set 0 (s.frameBit 0)) (x := s.ledgerAfterCoinA) 1 (j := 1) rfl (by simp)
  have hS := posting_serviceLine hq hv (p := (s.prev.set 0 (s.frameBit 0)).set 1 (s.frameBit 1)) (by simp)
  have mem0 : s.ledger ∈ s.ledgers := by simp [State.ledgers]
  have mem1 : s.ledgerAfterCoinA ∈ s.ledgers := by simp [State.ledgers]
  have mem2 : s.ledgerAfterCoins ∈ s.ledgers := by simp [State.ledgers]
  have mem3 : s.ledgerAfterLines ∈ s.ledgers := by simp [State.ledgers]
  have hP0 : Posting s s.prev s.ledger s := .intro s.shared (ledgerMemory_start s)
  refine orderlyFrom_bind (orderlyFrom_line hK hv mem0 mem1 (orderly_coinLine 0 s hs) hA hP0 hP0.seen fun _ h => h.seen)
    fun _ t1 e1 => ?_
  have hs1 := (orderly_coinLine (n := 2) 0).underway hs e1
  have hP1 := hA.of_run hP0 e1
  refine orderlyFrom_bind (orderlyFrom_line hK hv mem1 mem2 (orderly_coinLine 1 t1 hs1) hB hP1 (Posting.seen hP1)
    fun _ h => h.seen) fun _ t2 e2 => ?_
  have hs2 := (orderly_coinLine (n := 2) 1).underway hs1 e2
  have hP2 := hB.of_run hP1 e2
  refine orderlyFrom_bind (orderlyFrom_line hK hv mem2 mem3 (orderly_serviceLine t2 hs2) hS hP2 (Posting.seen hP2)
    fun _ h => h.seen_serviceDriven) fun _ t3 e3 => ?_
  have hs3 := (orderly_serviceLine (n := 2)).underway hs2 e3
  have hseen3 := Posting.seen_serviceDriven (hS.of_run hP2 e3)
  obtain ⟨hend, hcut⟩ := orderly_threshold (n := 2) t3 hs3
  refine ⟨hend, hcut.mono fun u ⟨hu, _⟩ => ⟨hu, ledgerCut_of_seen mem3 mem3 hseen3 hseen3 fun b => .inl ?_⟩⟩
  obtain ⟨made, left, hnone, hon, -⟩ := hu
  exact hon.kept hK b (by simp [(List.append_eq_nil_iff.mp hnone.symm).1])

end

end

end Sys2Proof.Machine

namespace Sys2Proof.Machine

/-! ### A cold reset at any access of any slot -/

section
variable {s t u : State} {n : Fin 21} {K : Prop}

/-- The statement's reading of slot 2 cut short: the slot leaves the flag raised where the ledger says so. -/
theorem storesCutShort_of_ledgerCut (hq : s.Quiet) (hv : s.cfg.Valid) (hcut : LedgerCut s u)
    (hothers : ∀ a, a ∉ s.slotCells 2 → u.shared.get a = s.shared.get a) (e : runSlot 2 creditOp s = .next t) :
    StoresCutShort s 2 t u.shared := by
  obtain ⟨m, l, d, hcredit, -, -, -, -, hraised, -⟩ := creditSlot s hq hv
  cases hcredit.symm.trans e
  obtain ⟨hflag, hphony⟩ := hcut
  refine ⟨hothers, fun h => absurd rfl h, fun _ => ⟨hflag.imp_right fun ⟨h, hu⟩ => ?_, hphony⟩⟩
  exact hu.trans (hraised h).symm

/-- On the way through a slot, from `s` to `t`: what the environment keeps, the drives, and the stores where no race is on. -/
structure MidSlot (s : State) (n : Fin 21) (t u : State) : Prop where
  outside : u.outside = s.outside
  begun : s.trace <+: u.trace
  ends : u.trace <+: t.trace
  stores : s.cfg.Valid → s.cfg.hostInterleave = false ∨ s.hostRace = [] → StoresCutShort s n t u.shared

theorem midSlot_of_onTheWay {cells : List Nat} {op : SlotM Unit}
    (h : OnTheWay n K cells { s with pc := .slot n } (op.run { s with pc := .slot n }) u) (e : runSlot n op s = .next t)
    (hstores : s.cfg.Valid → s.cfg.hostInterleave = false ∨ s.hostRace = [] → StoresCutShort s n t u.shared) :
    MidSlot s n t u := by
  obtain ⟨made, left, -, hu, hend⟩ := h
  refine ⟨hu.outside, hu.trace, ?_, hstores⟩
  rcases ends_runSlot hend e with ⟨hon, -⟩ | ⟨-, -, htrace⟩
  exacts [hon.trace, htrace]

theorem cutWithin_creditSlot (hcold : s.coldResets = []) (e : runSlot 2 creditOp s = .next t) :
    CutWithin creditOp { s with pc := .slot 2 } (MidSlot s 2 t) := by
  by_cases hK : s.cfg.Valid ∧ (s.cfg.hostInterleave = false ∨ s.hostRace = [])
  · obtain ⟨hv, hrace⟩ := hK
    obtain ⟨-, hcut⟩ := orderlyFrom_creditOp (K := True) (s := { s with pc := .slot 2 }) trivial hv ⟨rfl, hcold, fun _ => hrace⟩
    refine hcut.mono fun u ⟨hu, hledger⟩ => midSlot_of_onTheWay hu e fun _ _ => ?_
    refine storesCutShort_of_ledgerCut ⟨hcold, hrace⟩ hv hledger (fun a ha => ?_) e
    obtain ⟨made, left, hcells, hon, -⟩ := hu
    refine hon.kept trivial a fun hmem => ha ?_
    have hall : a ∈ made ++ left := List.mem_append_left left hmem
    rw [← hcells] at hall
    simp only [List.mem_append, List.not_mem_nil, or_false, or_self] at hall
    exact hall
  · obtain ⟨-, hcut⟩ := orderly_creditOp (n := 2) (K := False) { s with pc := .slot 2 } ⟨rfl, hcold, False.elim⟩
    exact hcut.mono fun u ⟨hu, _⟩ => midSlot_of_onTheWay hu e fun hv hrace => absurd ⟨hv, hrace⟩ hK

/-- A cold reset inside a slot strikes on the slot's way. -/
theorem cutWithin_slot (hcold : s.coldResets = []) (e : runSlot n slotOps[n] s = .next t) :
    CutWithin slotOps[n] { s with pc := .slot n } (MidSlot s n t) := by
  by_cases hn : n = 2
  · subst hn
    exact cutWithin_creditSlot hcold e
  · obtain ⟨-, hcut⟩ := orderlyFrom_slot (n := n) hcold
      (K := s.cfg.Valid ∧ (s.cfg.hostInterleave = false ∨ s.hostRace = [])) (fun h => h.2) (fun h => h.1) hn
    exact hcut.mono fun u ⟨hu, _⟩ => midSlot_of_onTheWay hu e fun hv hrace =>
      storesCutShort_of_onTheWay ⟨hv, hrace⟩ hv hn hu e

/-- A cold reset that strikes on the slot's way, in the statement's words. -/
theorem MidSlot.cutShort (h : MidSlot s n t u) (later : List Nat) :
    ∃ m d x r, CutShort { s with draws := x, hostRace := r } later m d (.next (u.struck later)) ∧
      s.trace ++ d <+: t.trace ∧
      (s.cfg.Valid → s.cfg.hostInterleave = false ∨ s.hostRace = [] → StoresCutShort s n t m) := by
  obtain ⟨d, hd⟩ := h.begun
  exact ⟨u.shared, d, u.draws, u.hostRace, cutShort_of_outside h.outside hd later, hd ▸ h.ends, h.stores⟩

/-- A cold reset due in a slot falls behind it or cuts it short. -/
theorem step_due {j : Nat} {later : List Nat} (hr : s.status = .running) (hp : s.pc = .slot n)
    (hdue : s.coldResets = j :: later) (e : step { s with coldResets := [] } = .next t) :
    (∃ k, k ≤ j ∧ step s = .next { t with coldResets := (j - k) :: later }) ∨
    ∃ m d x r, CutShort { s with draws := x, hostRace := r } later m d (step s) ∧ s.trace ++ d <+: t.trace ∧
      (s.cfg.Valid → s.cfg.hostInterleave = false ∨ s.hostRace = [] → StoresCutShort s n t m) := by
  rw [step_slot (s := { s with coldResets := [] }) hr hp] at e
  rw [step_slot hr hp]
  have hcut := runSlot_due (cutWithin_slot rfl e) j later
  rw [due_of_coldResets hdue] at hcut
  rcases hcut with ⟨k, hk, hrun⟩ | ⟨u, hu, hrun⟩
  · exact .inl ⟨k, hk, by rw [hrun, e]; rfl⟩
  · rw [hrun]
    exact .inr (hu.cutShort later)

end

/-! ### A cold reset at a place given by number: the accesses before it (rule R231) -/

section
variable {s : State} {k : Nat} {later : List Nat}

theorem run_coldResetPoint_counted (hcold : s.coldResets = (k + 1) :: later) :
    coldResetPoint.run s = .ok () { s with coldResets := k :: later } := by
  show coldResetPoint s = _
  unfold coldResetPoint
  rw [hcold]

section
variable (hrace : s.cfg.hostInterleave = false ∨ s.hostRace = []) (hcold : s.coldResets = (k + 1) :: later)
include hrace hcold

theorem run_memRead_counted {a : Nat} (ha : InShared a) :
    (memRead a).run s = .ok (s.shared.get a) { s with coldResets := k :: later } := by
  have hhost := run_hostPoint_quiet { s with coldResets := k :: later } hrace
  simp only [memRead, run_bind, run_coldResetPoint_counted hcold, hhost, run_readNow, busRead_shared _ ha]

theorem run_memWrite_counted {a : Nat} (ha : InShared a) (v : Byte) :
    (memWrite a v).run s = .ok () { s with shared := s.shared.put a v, coldResets := k :: later } := by
  have hhost := run_hostPoint_quiet { s with coldResets := k :: later } hrace
  simp only [memWrite, run_bind, run_coldResetPoint_counted hcold, hhost, run_writeNow, busWrite_shared _ ha]

/-- A slot that begins with a read goes on with the byte there, the reset one access nearer. -/
theorem runSlot_read_counted {a : Nat} (ha : InShared a) (n : Fin 21) (rest : Byte → SlotM Unit) :
    runSlot n (memRead a >>= rest) s = runSlot n (rest (s.shared.get a)) { s with coldResets := k :: later } := by
  have hread := run_memRead_counted (s := { s with pc := .slot n }) hrace hcold ha
  simp only [runSlot, run_bind, hread]

/-- A slot that begins with a write goes on in the state the write leaves, the reset one access nearer. -/
theorem runSlot_write_counted {a : Nat} (ha : InShared a) (n : Fin 21) (v : Byte) (rest : Unit → SlotM Unit) :
    runSlot n (memWrite a v >>= rest) s =
      runSlot n (rest ()) { s with shared := s.shared.put a v, coldResets := k :: later } := by
  have hwrite := run_memWrite_counted (s := { s with pc := .slot n }) hrace hcold ha v
  simp only [runSlot, run_bind, hwrite]

end

/-! #### The interrupt pulse (rule R83) -/

theorem runSlot_drive_counted (hcold : s.coldResets = (k + 1) :: later) (n : Fin 21) (l : Bool)
    (rest : Unit → SlotM Unit) :
    runSlot n (portWrite .irqOut l >>= rest) s =
      runSlot n (rest ()) ({ s with coldResets := k :: later }.drive .irqOut l) := by
  have hpoint := run_coldResetPoint_counted (s := { s with pc := .slot n }) hcold
  simp only [runSlot, portWrite, run_bind, hpoint, run_update, State.drive]

/-- The pulse is cut off at any of its drives. -/
theorem cutShort_pulse {j : Nat} (hj : j < 3) (hcold : s.coldResets = j :: later) (n : Fin 21) :
    CutShort s later s.shared ([(.irqOut, false), (.irqOut, true), (.irqOut, false)].take j) (runSlot n pulse s) := by
  have hcut := cutShort_restart s later s.shared ([(Port.irqOut, false), (.irqOut, true), (.irqOut, false)].take j)
  unfold pulse
  have hlast {t : State} (ht : t.coldResets = 0 :: later) (l : Bool) (rest : Unit → SlotM Unit) :=
    runSlot_opens (n := n) (opens_bind (f := rest) (opens_portWrite .irqOut l)) ht
  interval_cases j
  · rw [hlast hcold]
    exact cutShort_struck s later s.shared
  · rw [runSlot_drive_counted hcold, hlast rfl]
    exact hcut
  · rw [runSlot_drive_counted hcold, runSlot_drive_counted (k := 0) (later := later) rfl,
      runSlot_opens (opens_portWrite .irqOut false) (later := later) rfl]
    simpa [State.struck, State.restart, State.drive] using hcut

/-! #### A command at the zeroing of its cell (rule R127) -/

section
variable (hv : s.cfg.Valid) (hrace : s.cfg.hostInterleave = false ∨ s.hostRace = [])

/-- The result of controller `c` stands in its output cell, its command cell not zeroed any more. -/
def State.unzeroed (s : State) (c : Fin 3) (r : Byte) : State := { s with shared := s.shared.put s.cfg.aCtrlOut[c] r }

include hv hrace

theorem run_complete_cut {c : Fin 3} {r : Byte} (hcold : s.coldResets = 1 :: later) :
    (complete c r).run s = .error .restarted ((s.unzeroed c r).struck later) := by
  have hout := run_memWrite_counted hrace hcold (inShared_ctrlOut hv c) r
  have hcmd := opens_memWrite s.cfg.aCtrlCmd[c] 0
    { s with ctrlCache := s.ctrlCache.set c r, shared := s.shared.put s.cfg.aCtrlOut[c] r, coldResets := 0 :: later }
    later rfl
  simp only [complete, run_bind, run_reg, hout, run_update, hcmd]
  rfl

/-- Reading the operand leaves one access before the zeroing. -/
theorem run_operand_counted {c : Fin 3} (hcold : s.coldResets = (s.cfg.accessesBeforeZeroing true - 1) :: later) :
    (operand c).run s = .ok (s.operandOf c) { s with coldResets := 1 :: later } := by
  unfold operand State.operandOf
  rw [run_bind, run_reg]
  cases hsrc : s.cfg.ctrlOperand with
  | cache =>
    have hs : s.coldResets = 1 :: later := by simpa [Cfg.accessesBeforeZeroing, hsrc] using hcold
    simp only [hsrc, run_reg, ← hs]
  | output =>
    have hs : s.coldResets = (1 + 1) :: later := by simpa [Cfg.accessesBeforeZeroing, hsrc] using hcold
    simp only [hsrc, run_memRead_counted hrace hs (inShared_ctrlOut hv c)]

theorem run_incCommand_cut {c : Fin 3} (hcold : s.coldResets = (s.cfg.accessesBeforeZeroing true - 1) :: later) :
    (incCommand c).run s =
      .error .restarted ((s.unzeroed c (s.incremented c (incAmount s.cfg c))).struck later) := by
  have hcut := run_complete_cut (s := { s with coldResets := 1 :: later }) hv hrace (c := c)
    (r := s.incremented c (incAmount s.cfg c)) rfl
  simp only [incCommand, run_bind, run_reg, run_operand_counted hv hrace hcold, incClamp_eq, hcut]
  rfl

theorem run_setCommand_cut {k : LevelTargets → Byte} (hcold : s.coldResets = 1 :: later) :
    (setCommand k).run s = .error .restarted ((s.unzeroed 2 (k s.cfg.levelTargets)).struck later) := by
  simp only [setCommand, run_bind, run_reg, run_complete_cut hv hrace hcold]

theorem run_creditCommand_cut {k : Fin 2} {op : CreditOp}
    (hcold : s.coldResets = (s.cfg.accessesBeforeZeroing op.readsOperand - 1) :: later) :
    ∃ r, s.CreditResult k r op ∧ (creditCommand k op).run s = .error .restarted ((s.unzeroed k.castSucc r).struck later) := by
  cases op with
  | derive =>
    refine ⟨_, derives_deriveByte hv k, ?_⟩
    simp only [creditCommand, deriveCommand, run_bind, run_reg, run_complete_cut hv hrace hcold]
  | inc => exact ⟨_, rfl, incAmount_credit s.cfg k ▸ run_incCommand_cut hv hrace hcold⟩
  | dec =>
    refine ⟨_, rfl, ?_⟩
    have hcut := run_complete_cut (s := { s with coldResets := 1 :: later }) hv hrace (c := k.castSucc)
      (r := s.operandOf k.castSucc - 1) rfl
    simp only [creditCommand, decCommand, run_bind, run_operand_counted hv hrace hcold, hcut]
    rfl
  | setMax =>
    refine ⟨_, rfl, ?_⟩
    simp only [creditCommand, setMaxCommand, run_bind, run_reg, run_complete_cut hv hrace hcold]

theorem run_levelCommand_cut {op : LevelOp}
    (hcold : s.coldResets = (s.cfg.accessesBeforeZeroing op.readsOperand - 1) :: later) :
    (levelCommand op).run s = .error .restarted ((s.unzeroed 2 (s.levelResult op)).struck later) := by
  cases op with
  | inc => exact run_incCommand_cut hv hrace hcold
  | set00 | set31 | set62 | set63 | set64 | set65 => exact run_setCommand_cut hv hrace hcold

end

/-- Every command makes an access before its operand's and its result's: the read of its cell. -/
theorem accessesBeforeZeroing_eq_succ (cfg : Cfg) (readsOperand : Bool) :
    cfg.accessesBeforeZeroing readsOperand = cfg.accessesBeforeZeroing readsOperand - 1 + 1 := by
  unfold Cfg.accessesBeforeZeroing
  split <;> rfl

/-- A command cut off at the zeroing, in the statement's words. -/
theorem cutShort_unzeroed (s : State) (c : Fin 3) (r : Byte) (later : List Nat) :
    ∃ m, CutShort s later m [] (.next ((s.unzeroed c r).struck later)) ∧ m.get s.cfg.aCtrlOut[c] = r ∧
      ∀ a, a ≠ s.cfg.aCtrlOut[c] → m.get a = s.shared.get a :=
  ⟨_, cutShort_struck s later _, Memory.get_put_self _ _ _, fun _ h => Memory.get_put_of_ne _ _ h⟩

/-- A controller's slot reads its command and goes on with it (rule R121). -/
theorem runSlot_creditController (k : Fin 2) (n : Fin 21) (s : State) :
    runSlot n (creditController k) s =
      runSlot n (memRead s.cfg.aCtrlCmd[k.castSucc] >>= (afterCommand s.cfg · k.castSucc)) s := by
  match k with
  | 0 | 1 => rfl

theorem runSlot_levelController (n : Fin 21) (s : State) :
    runSlot n levelController s = runSlot n (memRead s.cfg.aCtrlCmd[(2 : Fin 3)] >>= (afterCommand s.cfg · 2)) s := rfl

theorem runSlot_creditController_cut (hv : s.cfg.Valid) (hrace : s.cfg.hostInterleave = false ∨ s.hostRace = [])
    {k : Fin 2} {op : CreditOp} (hcold : s.coldResets = s.cfg.accessesBeforeZeroing op.readsOperand :: later)
    (hcmd : s.shared.get s.cfg.aCtrlCmd[k.castSucc] = s.cfg.creditMap[k].byteOf op) (n : Fin 21) :
    ∃ r, s.CreditResult k r op ∧
      runSlot n (creditController k) s = .next ((s.unzeroed k.castSucc r).struck later) := by
  rw [accessesBeforeZeroing_eq_succ] at hcold
  obtain ⟨r, hr, hcut⟩ := run_creditCommand_cut (s := { s with
    pc := .slot n, coldResets := (s.cfg.accessesBeforeZeroing op.readsOperand - 1) :: later }) (k := k) hv hrace rfl
  refine ⟨r, hr, ?_⟩
  rw [runSlot_creditController, runSlot_read_counted hrace hcold (inShared_ctrlCmd hv k.castSucc), hcmd,
    afterCommand_creditByte hv]
  exact runSlot_of_error n _ _ _ .restarted hcut

theorem runSlot_levelController_cut (hv : s.cfg.Valid) (hrace : s.cfg.hostInterleave = false ∨ s.hostRace = [])
    {op : LevelOp} (hcold : s.coldResets = s.cfg.accessesBeforeZeroing op.readsOperand :: later)
    (hcmd : s.shared.get s.cfg.aCtrlCmd[(2 : Fin 3)] = s.cfg.levelMap.byteOf op) (n : Fin 21) :
    runSlot n levelController s = .next ((s.unzeroed 2 (s.levelResult op)).struck later) := by
  rw [accessesBeforeZeroing_eq_succ] at hcold
  have hcut := run_levelCommand_cut (s := { s with
    pc := .slot n, coldResets := (s.cfg.accessesBeforeZeroing op.readsOperand - 1) :: later }) (op := op) hv hrace rfl
  rw [runSlot_levelController, runSlot_read_counted hrace hcold (inShared_ctrlCmd hv 2), hcmd, afterCommand_levelByte hv]
  exact runSlot_of_error n _ _ _ .restarted hcut

/-! #### A translator at the write of its status (rule R190) -/

/-- The slots of the translators (rule R60). -/
theorem exec_translatorSlot {x : Fin 3} {i : Instr} {n : Fin 21} (h : (x, i, n) ∈ translatorSlots) (s : State) :
    exec i s = runSlot n (translator x) s := by
  simp only [translatorSlots, List.mem_cons, Prod.mk.injEq, List.not_mem_nil, or_false] at h
  rcases h with ⟨rfl, rfl, rfl⟩ | ⟨rfl, rfl, rfl⟩ | ⟨rfl, rfl, rfl⟩ <;> rfl

theorem runSlot_translator_cut (hv : s.cfg.Valid) (hrace : s.cfg.hostInterleave = false ∨ s.hostRace = [])
    (hcold : s.coldResets = 5 :: later) {x : Fin 3} (harmed : s.shared.get s.cfg.aXlStatus[x] = s.cfg.vXlArmed)
    {table : List Byte} {b : Byte} (htable : s.cfg.xlTables[(s.shared.get s.cfg.aXlTable[x]).toNat]? = some table)
    (hentry : table[(s.shared.get s.cfg.aXlIndex[x]).toNat]? = some b) (n : Fin 21) :
    runSlot n (translator x) s = .next (({ s with shared := s.shared.put (s.xlDestination x) b } : State).struck later) := by
  have hsel : ¬ s.shared.get s.cfg.aXlTable[x] > 4 := by
    obtain ⟨-, -, hcount, -⟩ := hv.tables
    obtain ⟨hlt, -⟩ := List.getElem?_eq_some_iff.mp htable
    bv_omega
  have hread {j : Nat} (y : PlainCell) (rest : Byte → SlotM Unit) :
      runSlot n (memRead (s.cfg.addr y) >>= rest) (s.due (j + 1) later) =
        runSlot n (rest (s.shared.get (s.cfg.addr y))) (s.due j later) :=
    runSlot_read_counted (s := s.due (j + 1) later) hrace rfl (hv.inShared_addr y) n rest
  have hs : s = s.due 5 later := by rw [State.due, ← hcold]
  calc runSlot n (translator x) s
      = runSlot n (translator x) (s.due 5 later) := by rw [← hs]
    _ = runSlot n (if s.shared.get s.cfg.aXlStatus[x] = s.cfg.vXlArmed then fire x else pure ()) (s.due 4 later) :=
        hread (.xlStatus x) _
    _ = runSlot n (fire x) (s.due 4 later) := by rw [if_pos harmed]
    _ = runSlot n (if s.shared.get s.cfg.aXlTable[x] > 4 then
          raise (.refused (.translatorTable x (s.shared.get s.cfg.aXlTable[x])))
        else copyByte x (s.shared.get s.cfg.aXlTable[x])) (s.due 3 later) := hread (.xlTable x) _
    _ = runSlot n (copyByte x (s.shared.get s.cfg.aXlTable[x])) (s.due 3 later) := by rw [if_neg hsel]
    _ = runSlot n (do
          memWrite (s.xlDestination x)
            (translatorByte s.cfg (s.shared.get s.cfg.aXlTable[x]) (s.shared.get s.cfg.aXlIndex[x]))
          memWrite s.cfg.aXlStatus[x] s.cfg.vXlDone) (s.due 1 later) := (hread (.xlIndex x) _).trans (hread (.xlOffset x) _)
    _ = runSlot n (memWrite s.cfg.aXlStatus[x] s.cfg.vXlDone)
          ({ s with shared := s.shared.put (s.xlDestination x) b }.due 0 later) := by
        rw [translatorByte_of_getElem? htable hentry]
        exact runSlot_write_counted (s := s.due 1 later) hrace rfl (hv.inShared_window x _) n b _
    _ = .next (({ s with shared := s.shared.put (s.xlDestination x) b } : State).struck later) :=
        runSlot_opens (opens_memWrite _ _) rfl

end

/-- Settles O59: the first access by `Opens`, any other by the slot's way, the numbered places by the accesses before them. -/
theorem coldResetInTick : Obligations.ColdResetInTick := by
  intro s later hr
  refine ⟨fun n hp hdue => ?_, fun n j t hp hdue e => step_due hr hp hdue e, fun hv hrace => ⟨?_, ?_, ?_, ?_⟩⟩
  · rw [step_slot hr hp, runSlot_opens (opens_slotOps n) hdue]
    exact cutShort_struck s later s.shared
  · intro j hj hdue hmarker
    rw [Nat.add_comm] at hdue
    have hread : exec .irq s = runSlot 0 pulse { s with coldResets := j :: later } :=
      (runSlot_read_counted hrace hdue (hv.inShared_addr .irqMarker) 0 (afterRead s.cfg · .irqMarker)).trans
        (congrArg (runSlot 0 · _) (if_pos hmarker))
    rw [hread]
    exact cutShort_pulse (s := { s with coldResets := j :: later }) hj rfl 0
  · intro k i n op hslot hdue hcmd
    obtain ⟨r, hres, hcut⟩ := runSlot_creditController_cut hv hrace hdue hcmd n
    obtain ⟨m, hm⟩ := cutShort_unzeroed s k.castSucc r later
    rw [(exec_creditSlot hslot s).1, hcut]
    exact ⟨r, m, hres, hm⟩
  · intro op hdue hcmd
    have hexec : exec .ctrl2 s = runSlot 6 levelController s := rfl
    rw [hexec, runSlot_levelController_cut hv hrace hdue hcmd 6]
    exact cutShort_unzeroed s 2 (s.levelResult op) later
  · intro x i n table b hslot hdue harmed htable hentry
    rw [exec_translatorSlot hslot, runSlot_translator_cut hv hrace hdue harmed htable hentry]
    exact ⟨_, cutShort_struck s later _, Memory.get_put_self _ _ _, fun _ h => Memory.get_put_of_ne _ _ h⟩

end Sys2Proof.Machine
